-- ==== Sys2Proof/Config.lean ====
section
/-! DEFINITION. The constants of 00_scope.md R6, each named once (UNVERIFIED against the original code:
93_implementation_defined.md I1, log 15), the open parameters of R7, and the free values. -/

namespace Sys2Proof.Config

/-- BYTE_W, the width of a frame byte. -/
abbrev byteW : Nat := 8
/-- RESULT_W, the width of the result value. -/
abbrev resultW : Nat := 64
/-- MIN_FRAME_LEN. -/
def minFrameLen : Nat := 6
/-- How many byte ports there are: `in_b0` to `in_b5` (10_state.md R19). -/
abbrev presentedBytes : Nat := 6
/-- The width of the frame word W: the presented bytes side by side (30_encoding.md R47). -/
abbrev frameW : Nat := presentedBytes * byteW
/-- TAG_ONES. -/
def tagOnes : BitVec byteW := 66#byteW
/-- TAG_ZEROES. -/
def tagZeroes : BitVec byteW := 160#byteW
/-- HDR0_ONES. -/
def hdr0Ones : BitVec byteW := 178#byteW
/-- HDR1_ONES. -/
def hdr1Ones : BitVec byteW := 128#byteW
/-- ERR_ONES. -/
def errOnes : BitVec byteW := 90#byteW
/-- ERR_ZEROES. -/
def errZeroes : BitVec byteW := 164#byteW
/-- OKA_ONES. -/
def okAOnes : BitVec byteW := 66#byteW
/-- OKA_ZEROES. -/
def okAZeroes : BitVec byteW := 188#byteW
/-- OKB_ONES. -/
def okBOnes : BitVec byteW := 70#byteW
/-- OKB_ZEROES. -/
def okBZeroes : BitVec byteW := 184#byteW
/-- LAMBDA_HI_MASK. -/
def lambdaHiMask : BitVec byteW := 0x3F#byteW
/-- LAMBDA_HI_SHIFT. -/
def lambdaHiShift : Nat := 7
/-- AF_HI_MASK. -/
def afHiMask : BitVec byteW := 1#byteW
/-- AF_HI_SHIFT. -/
def afHiShift : Nat := 7
/-- LAMBDA_OFFSET. -/
def lambdaOffset : Nat := 500
/-- AFR_DIVISOR as an integer; the binary64 divisor is its exact conversion (44_result.md R81). -/
def afrDivisor : Nat := 10000
/-- MAX_AFR, the binary64 value nearest 20.33 (00_scope.md R6; 92_eei_decisions.md D12). -/
def maxAfr : BitVec resultW := 0x4034547AE147AE14#resultW
/-- The least width LEN_W may have (00_scope.md R7). -/
def minLenW : Nat := 3

end Sys2Proof.Config

namespace Sys2Proof

/-- What one implementation fixes and the spec leaves open (00_scope.md R7; 10_state.md R19, R29).
State carries one of these and no step changes it, so a statement about every state holds for
every implementation (log 1). -/
structure Params where
  /-- `LEN_W` beyond the 3 bits it has at least (R7). -/
  lenWExtra : Nat
  /-- `DECODE_LATENCY`, cycles from acceptance to response (R7, R114). -/
  decodeLatency : Nat
  /-- Whether the optional port `in_ready` is present (R19). -/
  hasReady : Bool
  /-- For how many cycles after reset `in_ready` may be withheld (R29: "a bounded number of cycles"). -/
  readyBound : Nat
  /-- Which free values of `in_ready` this implementation drives: two implementations need not agree (log 3). -/
  readySeed : Nat
deriving DecidableEq, Repr, Inhabited

/-- `LEN_W`, at least 3 (00_scope.md R7). -/
def Params.lenW (p : Params) : Nat := Config.minLenW + p.lenWExtra

/-- The parameters of the machine that `State.reset` is of: no body, so nothing can be proved of them
(log 1). -/
opaque Config.params : Params

/-- Free value (log 3): what an implementation drives on `in_ready` where the spec leaves it open (10_state.md
R28, R29; 93_implementation_defined.md I17, I19), by implementation, cycle and number of requests in flight. -/
opaque Config.freeReady : (seed cycle inFlight : Nat) → Bool

/-- Free value (log 8): sign and payload of the NaN a binary64 division gives. No decode reaches one
(44_result.md R81). -/
opaque Config.nanPayload : BitVec Config.resultW → BitVec Config.resultW → BitVec 52

end Sys2Proof
end

