-- ==== Sys2Proof/Word.lean ====
section
/-! DEFINITION. The word types of the AFR frame parser. -/

namespace Sys2Proof

/-- A frame byte: an unsigned value, bit k of weight 2^k (00_scope.md R9, R10; R6 BYTE_W). -/
abbrev Byte := BitVec Config.byteW

/-- The frame word W of 30_encoding.md R47: byte 0 in bits 47:40, byte 5 in bits 7:0. -/
abbrev FrameWord := BitVec Config.frameW

/-- A binary64 bit pattern: sign in bit 63, exponent in bits 62:52, fraction in bits 51:0
(20_memory.md R35; 00_scope.md R6 RESULT_W). -/
abbrev F64 := BitVec Config.resultW

end Sys2Proof
end

