-- ==== Sys2Proof/Machine/Memory.lean ====
section
/-! DEFINITION. The one address space, the request's frame (20_memory.md R30), as a request's snapshot holds
it (R41). There is no write: the block writes no position (R31). -/

namespace Sys2Proof.Machine

/-- The bytes of one frame by position, positions strictly rising. An unlisted position carries no value
(10_state.md R21, log 7). -/
abbrev Memory := List Host.Cell

/-- The canonical form: positions strictly rising. No byte equals "no value", so no entry can be redundant. -/
abbrev Memory.wf (m : Memory) : Prop := (m.map Prod.fst).Pairwise (· < ·)

/-- The byte at a position, or no value. -/
def Memory.read (m : Memory) (a : Nat) : Option Byte := (m.find? fun c => c.1 == a).map Prod.snd

/-- The memory of byte ports that stand at positions `k`, `k + 1`, …; a port that carries no value lists
nothing (10_state.md R21). -/
def Memory.load : Nat → List (Option Byte) → Memory
  | _, [] => []
  | k, none :: ports => Memory.load (k + 1) ports
  | k, some b :: ports => (k, b) :: Memory.load (k + 1) ports

/-- One request as sampled at acceptance: the length and the bytes presented (20_memory.md R41). -/
structure Request where
  len : Nat
  mem : Memory
deriving DecidableEq, Repr

/-- The transport's contract (10_state.md R21): exactly the positions below min(len, 6) carry a byte. -/
abbrev Request.wf (r : Request) : Prop :=
  r.mem.map Prod.fst = List.range (min r.len Config.presentedBytes)

/-- The request of a frame of any length: its length and its first six bytes (10_state.md R19; 30_encoding.md R54). -/
def Request.ofFrame (frame : List Byte) : Request :=
  { len := frame.length, mem := Memory.load 0 ((frame.take Config.presentedBytes).map some) }

/-- `MemRead(i, 1)`: no value at any position `i >= len` (00_scope.md R11; 20_memory.md R31). -/
def Request.memRead (r : Request) (i : Nat) : Option Byte :=
  if i < r.len then r.mem.read i else none

end Sys2Proof.Machine
end

