-- ==== Sys2Proof/Machine/BitMatcher.lean ====
section
/-! DEFINITION. The BitMatcher primitive (40_bit_matcher.md). -/

namespace Sys2Proof.Machine

/-- Are all the mask's bits 1 in the byte? (40_bit_matcher.md R59) -/
def matchOnes (byte mask : Byte) : Bool := (byte &&& mask) == mask

/-- Are all the mask's bits 0 in the byte? (40_bit_matcher.md R60) -/
def matchZeroes (byte mask : Byte) : Bool := (byte &&& mask) == 0

end Sys2Proof.Machine
end

