-- ==== Sys2Proof/Machine/Float.lean ====
section
/-! DEFINITION. The binary64 primitives of 00_scope.md R11: `toF64`, `divF64`, `gtF64`, over the layout of
20_memory.md R35 (log 9). Every finite binary64 is a whole number of units of 2^-1074, so its magnitude is held as
that number (`F64.units`) and rounding is a division of naturals. -/

namespace Sys2Proof.Machine

/-- Sign, bit 63 (20_memory.md R35). -/
def F64.sign (x : F64) : Bool := x.getLsbD (Config.resultW - 1)
/-- Biased exponent, bits 62:52 (R35). -/
def F64.expo (x : F64) : Nat := (x.extractLsb' 52 11).toNat
/-- Fraction, bits 51:0 (R35). -/
def F64.frac (x : F64) : Nat := (x.extractLsb' 0 52).toNat
/-- Exponent and fraction together, bits 62:0. Its order is the order of magnitudes. -/
def F64.mag (x : F64) : Nat := (x.extractLsb' 0 (Config.resultW - 1)).toNat

def F64.isNaN (x : F64) : Bool := F64.expo x == 2047 && F64.frac x != 0
def F64.isInf (x : F64) : Bool := F64.expo x == 2047 && F64.frac x == 0

/-- The magnitude of a finite binary64 in units of 2^-1074. -/
def F64.units (x : F64) : Nat :=
  if F64.expo x = 0 then F64.frac x else (2 ^ 52 + F64.frac x) * 2 ^ (F64.expo x - 1)

/-- One, in units of 2^-1074. -/
def F64.one : Nat := 2 ^ 1074

/-- `n / d` rounded to the nearest natural, a tie to the even one (log 9). -/
def divNearest (n d : Nat) : Nat :=
  let q := n / d
  let r := n % d
  if d < 2 * r ∨ (2 * r = d ∧ q % 2 = 1) then q + 1 else q

/-- The bit pattern with this sign and magnitude field. -/
def F64.pack (neg : Bool) (mag : Nat) : F64 :=
  BitVec.ofNat Config.resultW (mag + if neg then 2 ^ (Config.resultW - 1) else 0)

/-- How many low binary digits of the unit count of `n / d` a binary64 drops: none up to 53 digits. -/
def droppedDigits (n d : Nat) : Nat := Nat.log2 (n * F64.one / d) - 52

/-- The magnitude field of the binary64 nearest `n / d` (92_eei_decisions.md D11): the units kept after
dropping `t` digits, the exponent raised by `t`; from 2^1024 up, infinity. -/
def nearestMag (n d : Nat) : Nat :=
  let t := droppedDigits n d
  min (divNearest (n * F64.one) (d * 2 ^ t) + t * 2 ^ 52) (2047 * 2 ^ 52)

/-- The binary64 nearest `± n / d`, for `d` not 0. -/
def ofRatio (neg : Bool) (n d : Nat) : F64 := F64.pack neg (nearestMag n d)

/-- `toF64(k)`: the binary64 equal to the integer k, exact below 2^53 (00_scope.md R11). The value of 0 is
+0.0 (92_eei_decisions.md D10). -/
def toF64 (k : Int) : F64 := ofRatio (k < 0) k.natAbs 1

/-- A NaN: all exponent bits 1, fraction not 0; sign and payload free (log 8). -/
def F64.nan (x y : F64) : F64 :=
  let p := Config.nanPayload x y
  p.extractLsb' 51 1 ++ 0xFFF#12 ++ p.extractLsb' 0 51

/-- `divF64(x, y)`: IEEE 754 binary64 division, rounded to nearest (00_scope.md R11). -/
def divF64 (x y : F64) : F64 :=
  let neg := F64.sign x != F64.sign y
  if F64.isNaN x || F64.isNaN y then F64.nan x y
  else if F64.isInf x then
    if F64.isInf y then F64.nan x y else F64.pack neg (2047 * 2 ^ 52)
  else if F64.isInf y then F64.pack neg 0
  else if F64.units y = 0 then
    if F64.units x = 0 then F64.nan x y else F64.pack neg (2047 * 2 ^ 52)
  else ofRatio neg (F64.units x) (F64.units y)

/-- A binary64's place in the order of values: its magnitude field, negated for a set sign. Both zeros
have key 0. -/
def F64.key (x : F64) : Int := if F64.sign x then -(F64.mag x : Int) else (F64.mag x : Int)

/-- `gtF64(x, y)`: the IEEE 754 ordered greater-than (00_scope.md R11). -/
def gtF64 (x y : F64) : Bool :=
  !F64.isNaN x && !F64.isNaN y && decide (F64.key y < F64.key x)

end Sys2Proof.Machine
end

