-- ==== Sys2Proof/Machine/Flags.lean ====
section
/-! DEFINITION. The block's flags: the predicates of the validator and the demultiplexer over a frame's
length and bytes, and the clamp (10_state.md R18). -/

namespace Sys2Proof.Machine

/-- `len_ok` (41_frame_validation.md R63). -/
def lenOk (len : Nat) : Bool := decide (Config.minFrameLen ≤ len)

/-- `tag_ok`, isLc1 (41_frame_validation.md R64). -/
def tagOk (b2 : Byte) : Bool := matchOnes b2 Config.tagOnes && matchZeroes b2 Config.tagZeroes

/-- `hdr_ok`, isHeaderValid (41_frame_validation.md R65). -/
def hdrOk (b0 b1 : Byte) : Bool := matchOnes b0 Config.hdr0Ones && matchOnes b1 Config.hdr1Ones

/-- `is_err` (42_payload_demux.md R69). -/
def isErr (b2 : Byte) : Bool := matchOnes b2 Config.errOnes && matchZeroes b2 Config.errZeroes

/-- `is_ok_a` (42_payload_demux.md R70). -/
def isOkA (b2 : Byte) : Bool := matchOnes b2 Config.okAOnes && matchZeroes b2 Config.okAZeroes

/-- `is_ok_b` (42_payload_demux.md R71). -/
def isOkB (b2 : Byte) : Bool := matchOnes b2 Config.okBOnes && matchZeroes b2 Config.okBZeroes

/-- `is_ok` (42_payload_demux.md R72). -/
def isOk (b2 : Byte) : Bool := isOkA b2 || isOkB b2

/-- `clamped` (44_result.md R82): strictly greater than MAX_AFR. -/
def clampedFlag (afrRaw : F64) : Bool := gtF64 afrRaw Config.maxAfr

/-- `afr` (44_result.md R82). -/
def clampAfr (afrRaw : F64) : F64 := if clampedFlag afrRaw then Config.maxAfr else afrRaw

end Sys2Proof.Machine
end

