-- ==== Sys2Proof/Syntax.lean ====
section
/-! DEFINITION. The decode requests of the block, one constructor per row of spec/opcode_table.json
(00_scope.md R3; 30_encoding.md R46, R51). A constructor carries the frame's length and every bit its row
leaves free, in the order of the frame. The bits a malformed row fixes are the ones its name gives; those of
the other rows follow from the masks of Config, so their free bits stand in whole bytes, each bit in its
place and the fixed ones 0. -/

namespace Sys2Proof

/-- The header bits no outcome reads once the header passes, in bytes 0 and 1, the bits that R65 tests being 0
(20_memory.md R32; 30_encoding.md R46). -/
structure HeaderFree where
  b0 : Byte
  b1 : Byte
deriving DecidableEq, Repr

inductive Instr where
  /-- UNRECOGNIZED_SHORT: the length alone selects it, and no byte is read (R63, log 12). -/
  | unrecognizedShort (len : Nat)
  /-- UNRECOGNIZED_TAG_B2BIT7_1 (R64). -/
  | unrecognizedTagB2Bit7 (len : Nat) (b0 b1 : Byte) (b2Low : BitVec 7) (b3 b4 b5 : Byte)
  /-- UNRECOGNIZED_TAG_B2BIT6_0 (R64). -/
  | unrecognizedTagB2Bit6 (len : Nat) (b0 b1 : Byte) (b2High : BitVec 1) (b2Low : BitVec 6) (b3 b4 b5 : Byte)
  /-- UNRECOGNIZED_TAG_B2BIT5_1 (R64). -/
  | unrecognizedTagB2Bit5 (len : Nat) (b0 b1 : Byte) (b2High : BitVec 2) (b2Low : BitVec 5) (b3 b4 b5 : Byte)
  /-- UNRECOGNIZED_TAG_B2BIT1_0 (R64). -/
  | unrecognizedTagB2Bit1 (len : Nat) (b0 b1 : Byte) (b2High : BitVec 6) (b2Low : BitVec 1) (b3 b4 b5 : Byte)
  /-- UNRECOGNIZED_HDR_B0BIT7_0 (R65). -/
  | unrecognizedHdrB0Bit7 (len : Nat) (b0Low : BitVec 7) (b1 b2 b3 b4 b5 : Byte)
  /-- UNRECOGNIZED_HDR_B0BIT5_0 (R65). -/
  | unrecognizedHdrB0Bit5 (len : Nat) (b0High : BitVec 2) (b0Low : BitVec 5) (b1 b2 b3 b4 b5 : Byte)
  /-- UNRECOGNIZED_HDR_B0BIT4_0 (R65). -/
  | unrecognizedHdrB0Bit4 (len : Nat) (b0High : BitVec 3) (b0Low : BitVec 4) (b1 b2 b3 b4 b5 : Byte)
  /-- UNRECOGNIZED_HDR_B0BIT1_0 (R65). -/
  | unrecognizedHdrB0Bit1 (len : Nat) (b0High : BitVec 6) (b0Low : BitVec 1) (b1 b2 b3 b4 b5 : Byte)
  /-- UNRECOGNIZED_HDR_B1BIT7_0 (R65). -/
  | unrecognizedHdrB1Bit7 (len : Nat) (b0 : Byte) (b1Low : BitVec 7) (b2 b3 b4 b5 : Byte)
  /-- ERROR_FRAME (R80): `b2` and `b3` are ignored. Byte 4 is `b4Rest`, ignored, and `lambdaHi`, the bits of
  LAMBDA_HI_MASK; byte 5 is `lambdaLo`. -/
  | errorFrame (len : Nat) (hdr : HeaderFree) (b2 b3 b4Rest lambdaHi lambdaLo : Byte)
  /-- READING_A (R84): `afHi` is what the pattern leaves free of byte 2, `afLo` is byte 3; bytes 4 and 5 as in
  ERROR_FRAME. -/
  | readingA (len : Nat) (hdr : HeaderFree) (afHi afLo b4Rest lambdaHi lambdaLo : Byte)
  /-- READING_B (R84): as READING_A. -/
  | readingB (len : Nat) (hdr : HeaderFree) (afHi afLo b4Rest lambdaHi lambdaLo : Byte)
  /-- OVERRUN_4A (R85): selector bit S0 and the rest of byte 2 that no check tests are free. -/
  | overrun4A (len : Nat) (hdr : HeaderFree) (s0 : BitVec 1) (b2Rest b3 b4 b5 : Byte)
  /-- OVERRUN_52 (R85): as OVERRUN_4A. -/
  | overrun52 (len : Nat) (hdr : HeaderFree) (s0 : BitVec 1) (b2Rest b3 b4 b5 : Byte)
  /-- OVERRUN_5E (R85): the rest of byte 2 that no check tests is free. -/
  | overrun5E (len : Nat) (hdr : HeaderFree) (b2Rest b3 b4 b5 : Byte)
deriving DecidableEq, Repr

/-- The length of the instruction's frame (30_encoding.md R54). -/
def Instr.len : Instr → Nat
  | .unrecognizedShort len => len
  | .unrecognizedTagB2Bit7 len _ _ _ _ _ _ => len
  | .unrecognizedTagB2Bit6 len _ _ _ _ _ _ _ => len
  | .unrecognizedTagB2Bit5 len _ _ _ _ _ _ _ => len
  | .unrecognizedTagB2Bit1 len _ _ _ _ _ _ _ => len
  | .unrecognizedHdrB0Bit7 len _ _ _ _ _ _ => len
  | .unrecognizedHdrB0Bit5 len _ _ _ _ _ _ _ => len
  | .unrecognizedHdrB0Bit4 len _ _ _ _ _ _ _ => len
  | .unrecognizedHdrB0Bit1 len _ _ _ _ _ _ _ => len
  | .unrecognizedHdrB1Bit7 len _ _ _ _ _ _ => len
  | .errorFrame len _ _ _ _ _ _ => len
  | .readingA len _ _ _ _ _ _ => len
  | .readingB len _ _ _ _ _ _ => len
  | .overrun4A len _ _ _ _ _ _ => len
  | .overrun52 len _ _ _ _ _ _ => len
  | .overrun5E len _ _ _ _ _ => len

end Sys2Proof
end

