-- ==== Sys2Proof/WellFormed.lean ====
section
/-! DEFINITION. Which instructions a frame can be: the length fits the row, no row tried earlier by
30_encoding.md R51 matches too (log 4), and the free bits hold none that the row fixes. -/

namespace Sys2Proof

open Sys2Proof.Machine (lenOk tagOk matchOnes matchZeroes)

/-- The free header bits hold none of the bits that R65 tests. -/
def HeaderFree.ok (h : HeaderFree) : Bool :=
  matchZeroes h.b0 Config.hdr0Ones && matchZeroes h.b1 Config.hdr1Ones

/-- The free bits of byte 2 hold none of the bits a pattern tests (40_bit_matcher.md R62). -/
def byte2FreeOk (b2 ones zeroes : Byte) : Bool := matchZeroes b2 (ones ||| zeroes)

/-- The two parts of byte 4 are apart: the bits of LAMBDA_HI_MASK, and the others. -/
def byte4Ok (b4Rest lambdaHi : Byte) : Bool :=
  matchZeroes b4Rest Config.lambdaHiMask && matchZeroes lambdaHi (~~~Config.lambdaHiMask)

/-- Bits 4, 3 and 2 of byte 2, the selector S2 S1 S0 (30_encoding.md R46). -/
def selectorMask : Byte := 0x1C

/-- The free bits of byte 2 in an OVERRUN row hold none that the tag tests and no selector bit. -/
def overrunFreeOk (b2Rest : Byte) : Bool :=
  byte2FreeOk b2Rest (Config.tagOnes ||| selectorMask) Config.tagZeroes

/-- The length check against the row (R63); for a malformed row, the earlier rows of R51, each of one bit, do not
match: the tag bits above the row's own, the whole tag for the header rows, and the header bits before the
row's own; for the other rows, the free bits are free. -/
def Instr.wellFormed : Instr → Bool
  | .unrecognizedShort len => !lenOk len
  | .unrecognizedTagB2Bit7 len _ _ _ _ _ _ => lenOk len
  | .unrecognizedTagB2Bit6 len _ _ hi lo _ _ _ =>
      lenOk len && matchZeroes (hi ++ 0b0#1 ++ lo) (Config.tagZeroes &&& 0x80)
  | .unrecognizedTagB2Bit5 len _ _ hi lo _ _ _ =>
      lenOk len && matchZeroes (hi ++ 0b1#1 ++ lo) (Config.tagZeroes &&& 0x80) &&
        matchOnes (hi ++ 0b1#1 ++ lo) (Config.tagOnes &&& 0x40)
  | .unrecognizedTagB2Bit1 len _ _ hi lo _ _ _ =>
      lenOk len && matchZeroes (hi ++ 0b0#1 ++ lo) (Config.tagZeroes &&& 0xA0) &&
        matchOnes (hi ++ 0b0#1 ++ lo) (Config.tagOnes &&& 0x40)
  | .unrecognizedHdrB0Bit7 len _ _ b2 _ _ _ => lenOk len && tagOk b2
  | .unrecognizedHdrB0Bit5 len hi lo _ b2 _ _ _ =>
      lenOk len && tagOk b2 && matchOnes (hi ++ 0b0#1 ++ lo) (Config.hdr0Ones &&& 0x80)
  | .unrecognizedHdrB0Bit4 len hi lo _ b2 _ _ _ =>
      lenOk len && tagOk b2 && matchOnes (hi ++ 0b0#1 ++ lo) (Config.hdr0Ones &&& 0xA0)
  | .unrecognizedHdrB0Bit1 len hi lo _ b2 _ _ _ =>
      lenOk len && tagOk b2 && matchOnes (hi ++ 0b0#1 ++ lo) (Config.hdr0Ones &&& 0xB0)
  | .unrecognizedHdrB1Bit7 len b0 _ b2 _ _ _ => lenOk len && tagOk b2 && matchOnes b0 Config.hdr0Ones
  | .errorFrame len hdr b2 _ b4Rest lambdaHi _ =>
      lenOk len && hdr.ok && byte2FreeOk b2 Config.errOnes Config.errZeroes && byte4Ok b4Rest lambdaHi
  | .readingA len hdr afHi _ b4Rest lambdaHi _ =>
      lenOk len && hdr.ok && byte2FreeOk afHi Config.okAOnes Config.okAZeroes && byte4Ok b4Rest lambdaHi
  | .readingB len hdr afHi _ b4Rest lambdaHi _ =>
      lenOk len && hdr.ok && byte2FreeOk afHi Config.okBOnes Config.okBZeroes && byte4Ok b4Rest lambdaHi
  | .overrun4A len hdr _ b2Rest _ _ _ => lenOk len && hdr.ok && overrunFreeOk b2Rest
  | .overrun52 len hdr _ b2Rest _ _ _ => lenOk len && hdr.ok && overrunFreeOk b2Rest
  | .overrun5E len hdr b2Rest _ _ _ => lenOk len && hdr.ok && overrunFreeOk b2Rest

end Sys2Proof
end

