-- ==== Sys2Proof/Decode.lean ====
section
/-! DEFINITION. From a request to the instruction it is, and back (30_encoding.md R46, R47, R51). Every mask and
match is computed from the masks of Config, so that a mask is changed in one place (00_scope.md R6, log 15). -/

namespace Sys2Proof

open Sys2Proof.Machine

/-- Why a request is no instruction. It does not happen to a request that keeps the transport's contract. -/
inductive DecodeError where
  /-- A position the decode reads carries no value (10_state.md R21, log 6). -/
  | byteAbsent (pos : Nat)
deriving DecidableEq, Repr

/-- `W = b0 << 40 | b1 << 32 | b2 << 24 | b3 << 16 | b4 << 8 | b5` (30_encoding.md R47). -/
def frameWord (b0 b1 b2 b3 b4 b5 : Byte) : FrameWord := b0 ++ b1 ++ b2 ++ b3 ++ b4 ++ b5

/-- Byte `k` of a frame word. -/
def byteAt (w : FrameWord) (k : Nat) : Byte := w.extractLsb' (Config.byteW * (Config.presentedBytes - 1 - k)) Config.byteW

/-- The six bytes of a frame word, position 0 first. -/
def frameBytes (w : FrameWord) : List Byte :=
  [byteAt w 0, byteAt w 1, byteAt w 2, byteAt w 3, byteAt w 4, byteAt w 5]

/-- One byte of the request, or the name of what is missing. -/
def readByte (r : Request) (i : Nat) : Except DecodeError Byte :=
  match r.memRead i with
  | some b => .ok b
  | none => .error (.byteAbsent i)

/-- The frame word of a request: positions 0 to 5 in order, no other (20_memory.md R31; 44_result.md R86). -/
def requestWord (r : Request) : Except DecodeError FrameWord := do
  let b0 ← readByte r 0
  let b1 ← readByte r 1
  let b2 ← readByte r 2
  let b3 ← readByte r 3
  let b4 ← readByte r 4
  let b5 ← readByte r 5
  pure (frameWord b0 b1 b2 b3 b4 b5)

/-! ### The rows of spec/opcode_table.json -/

/-- The bits of a byte outside a mask. -/
def clearBits (b mask : Byte) : Byte := b &&& ~~~mask

/-- The header bits no outcome reads, from a frame word whose header passes. -/
def headerFree (w : FrameWord) : HeaderFree :=
  { b0 := clearBits (byteAt w 0) Config.hdr0Ones, b1 := clearBits (byteAt w 1) Config.hdr1Ones }

/-- One row of spec/opcode_table.json: `W & mask = value` selects it, and `build` pulls its free bits out
(bit numbers of W). -/
structure ClassRow where
  mnemonic : String
  priority : Nat
  mask : FrameWord
  value : FrameWord
  build : Nat → FrameWord → Instr

/-- Does the row's mask-and-match test hold of the frame word? (30_encoding.md R51, step 3) -/
def ClassRow.selects (row : ClassRow) (w : FrameWord) : Bool := w &&& row.mask == row.value

/-- The word of a mask of bytes 0, 1 and 2. -/
def headWord (m0 m1 m2 : Byte) : FrameWord := frameWord m0 m1 m2 0 0 0

/-- The row of a bit that a mask of ones tests and that is 0 (41_frame_validation.md R64, R65). -/
def missingOneRow (mnemonic : String) (priority : Nat) (bit : FrameWord) (build : Nat → FrameWord → Instr) : ClassRow :=
  ⟨mnemonic, priority, bit, 0, build⟩

/-- The row of a bit that a mask of zeroes tests and that is 1 (41_frame_validation.md R64). -/
def extraOneRow (mnemonic : String) (priority : Nat) (bit : FrameWord) (build : Nat → FrameWord → Instr) : ClassRow :=
  ⟨mnemonic, priority, bit, bit, build⟩

/-- A row whose header passes and whose byte 2 has these ones and these zeroes (40_bit_matcher.md R62). -/
def validRow (mnemonic : String) (priority : Nat) (ones zeroes : Byte) (build : Nat → FrameWord → Instr) : ClassRow :=
  ⟨mnemonic, priority, headWord Config.hdr0Ones Config.hdr1Ones (ones ||| zeroes),
    headWord Config.hdr0Ones Config.hdr1Ones ones, build⟩

/-- The four type-tag failures (R64): each tests one bit of TAG_ONES or TAG_ZEROES. -/
def tagRows : List ClassRow :=
  [ extraOneRow "UNRECOGNIZED_TAG_B2BIT7_1" 2 (headWord 0 0 (Config.tagZeroes &&& 0x80)) fun len w =>
      .unrecognizedTagB2Bit7 len (byteAt w 0) (byteAt w 1) ((byteAt w 2).extractLsb' 0 7) (byteAt w 3) (byteAt w 4) (byteAt w 5),
    missingOneRow "UNRECOGNIZED_TAG_B2BIT6_0" 2 (headWord 0 0 (Config.tagOnes &&& 0x40)) fun len w =>
      .unrecognizedTagB2Bit6 len (byteAt w 0) (byteAt w 1) ((byteAt w 2).extractLsb' 7 1) ((byteAt w 2).extractLsb' 0 6)
        (byteAt w 3) (byteAt w 4) (byteAt w 5),
    extraOneRow "UNRECOGNIZED_TAG_B2BIT5_1" 2 (headWord 0 0 (Config.tagZeroes &&& 0x20)) fun len w =>
      .unrecognizedTagB2Bit5 len (byteAt w 0) (byteAt w 1) ((byteAt w 2).extractLsb' 6 2) ((byteAt w 2).extractLsb' 0 5)
        (byteAt w 3) (byteAt w 4) (byteAt w 5) ]

/-- The last type-tag failure, which takes whatever else fails the tag (R64). -/
def lastTagRow : ClassRow :=
  missingOneRow "UNRECOGNIZED_TAG_B2BIT1_0" 2 (headWord 0 0 (Config.tagOnes &&& 0x02)) fun len w =>
    .unrecognizedTagB2Bit1 len (byteAt w 0) (byteAt w 1) ((byteAt w 2).extractLsb' 2 6) ((byteAt w 2).extractLsb' 0 1)
      (byteAt w 3) (byteAt w 4) (byteAt w 5)

/-- The header failures of byte 0 (R65): each tests one bit of HDR0_ONES. -/
def hdrRows : List ClassRow :=
  [ missingOneRow "UNRECOGNIZED_HDR_B0BIT7_0" 3 (headWord (Config.hdr0Ones &&& 0x80) 0 0) fun len w =>
      .unrecognizedHdrB0Bit7 len ((byteAt w 0).extractLsb' 0 7) (byteAt w 1) (byteAt w 2) (byteAt w 3) (byteAt w 4) (byteAt w 5),
    missingOneRow "UNRECOGNIZED_HDR_B0BIT5_0" 3 (headWord (Config.hdr0Ones &&& 0x20) 0 0) fun len w =>
      .unrecognizedHdrB0Bit5 len ((byteAt w 0).extractLsb' 6 2) ((byteAt w 0).extractLsb' 0 5) (byteAt w 1) (byteAt w 2)
        (byteAt w 3) (byteAt w 4) (byteAt w 5),
    missingOneRow "UNRECOGNIZED_HDR_B0BIT4_0" 3 (headWord (Config.hdr0Ones &&& 0x10) 0 0) fun len w =>
      .unrecognizedHdrB0Bit4 len ((byteAt w 0).extractLsb' 5 3) ((byteAt w 0).extractLsb' 0 4) (byteAt w 1) (byteAt w 2)
        (byteAt w 3) (byteAt w 4) (byteAt w 5),
    missingOneRow "UNRECOGNIZED_HDR_B0BIT1_0" 3 (headWord (Config.hdr0Ones &&& 0x02) 0 0) fun len w =>
      .unrecognizedHdrB0Bit1 len ((byteAt w 0).extractLsb' 2 6) ((byteAt w 0).extractLsb' 0 1) (byteAt w 1) (byteAt w 2)
        (byteAt w 3) (byteAt w 4) (byteAt w 5) ]

/-- The header failure of byte 1, which takes whatever else fails the header (R65). -/
def lastHdrRow : ClassRow :=
  missingOneRow "UNRECOGNIZED_HDR_B1BIT7_0" 3 (headWord 0 (Config.hdr1Ones &&& 0x80) 0) fun len w =>
    .unrecognizedHdrB1Bit7 len (byteAt w 0) ((byteAt w 1).extractLsb' 0 7) (byteAt w 2) (byteAt w 3) (byteAt w 4) (byteAt w 5)

/-- ERROR_FRAME (42_payload_demux.md R69). -/
def errorRow : ClassRow :=
  validRow "ERROR_FRAME" 4 Config.errOnes Config.errZeroes fun len w =>
    .errorFrame len (headerFree w) (clearBits (byteAt w 2) (Config.errOnes ||| Config.errZeroes)) (byteAt w 3)
      (clearBits (byteAt w 4) Config.lambdaHiMask) (byteAt w 4 &&& Config.lambdaHiMask) (byteAt w 5)

/-- READING_A (42_payload_demux.md R70). -/
def readingARow : ClassRow :=
  validRow "READING_A" 5 Config.okAOnes Config.okAZeroes fun len w =>
    .readingA len (headerFree w) (clearBits (byteAt w 2) (Config.okAOnes ||| Config.okAZeroes)) (byteAt w 3)
      (clearBits (byteAt w 4) Config.lambdaHiMask) (byteAt w 4 &&& Config.lambdaHiMask) (byteAt w 5)

/-- READING_B (42_payload_demux.md R71). -/
def readingBRow : ClassRow :=
  validRow "READING_B" 5 Config.okBOnes Config.okBZeroes fun len w =>
    .readingB len (headerFree w) (clearBits (byteAt w 2) (Config.okBOnes ||| Config.okBZeroes)) (byteAt w 3)
      (clearBits (byteAt w 4) Config.lambdaHiMask) (byteAt w 4 &&& Config.lambdaHiMask) (byteAt w 5)

/-- The bits of byte 2 that neither the tag tests nor the selector holds. -/
def overrunRest (w : FrameWord) : Byte := clearBits (byteAt w 2) (Config.tagOnes ||| selectorMask ||| Config.tagZeroes)

/-- The overruns of selector 01x and 10x (42_payload_demux.md R73): a tag that passes, and S2 and S1. -/
def overrunRows : List ClassRow :=
  [ validRow "OVERRUN_4A" 6 (Config.tagOnes ||| 0x08) (Config.tagZeroes ||| 0x10) fun len w =>
      .overrun4A len (headerFree w) ((byteAt w 2).extractLsb' 2 1) (overrunRest w) (byteAt w 3) (byteAt w 4) (byteAt w 5),
    validRow "OVERRUN_52" 6 (Config.tagOnes ||| 0x10) (Config.tagZeroes ||| 0x08) fun len w =>
      .overrun52 len (headerFree w) ((byteAt w 2).extractLsb' 2 1) (overrunRest w) (byteAt w 3) (byteAt w 4) (byteAt w 5) ]

/-- The overrun of selector 111, which takes whatever else is valid and no other class (R73). -/
def lastOverrunRow : ClassRow :=
  validRow "OVERRUN_5E" 6 (Config.tagOnes ||| 0x1C) Config.tagZeroes fun len w =>
    .overrun5E len (headerFree w) (overrunRest w) (byteAt w 3) (byteAt w 4) (byteAt w 5)

/-- The rows that read the frame word, in ascending priority and, within one, in the table's order
(30_encoding.md R51, log 4). -/
def classRows : List ClassRow :=
  tagRows ++ lastTagRow :: hdrRows ++ lastHdrRow :: errorRow :: readingARow :: readingBRow :: overrunRows ++
    [lastOverrunRow]

/-! ### The decoder -/

/-- The row of a frame word: the checks in the order of 41_frame_validation.md R66 and 42_payload_demux.md R74,
with the masks of Config, and, among rows of one outcome, the first that matches (log 4). It is the
first-match procedure of 30_encoding.md R51 over `classRows` (Obligations.FirstMatchingRowGivesOrderedOutcome). -/
def rowOf (w : FrameWord) : ClassRow :=
  if !tagOk (byteAt w 2) then (tagRows.find? (·.selects w)).getD lastTagRow
  else if !hdrOk (byteAt w 0) (byteAt w 1) then (hdrRows.find? (·.selects w)).getD lastHdrRow
  else if isErr (byteAt w 2) then errorRow
  else if isOkA (byteAt w 2) then readingARow
  else if isOkB (byteAt w 2) then readingBRow
  else (overrunRows.find? (·.selects w)).getD lastOverrunRow

/-- The instruction of a frame word of a frame of this length. -/
def decodeWord (len : Nat) (w : FrameWord) : Instr := (rowOf w).build len w

/-- The instruction of a request (30_encoding.md R51). A short frame is answered without reading a byte
(20_memory.md R31). -/
def decode (r : Request) : Except DecodeError Instr :=
  if lenOk r.len then
    match requestWord r with
    | .ok w => .ok (decodeWord r.len w)
    | .error e => .error e
  else .ok (.unrecognizedShort r.len)

/-! ### The encoder -/

/-- The frame word of a valid frame: the header's ones and its free bits, then bytes 2 to 5. -/
def validWord (h : HeaderFree) (b2 b3 b4 b5 : Byte) : FrameWord :=
  frameWord (Config.hdr0Ones ||| h.b0) (Config.hdr1Ones ||| h.b1) b2 b3 b4 b5

/-- Selector bit S0 in its place, bit 2 of byte 2 (30_encoding.md R46). -/
def selectorS0 (s0 : BitVec 1) : Byte := s0.setWidth Config.byteW <<< 2

/-- The frame word of an instruction, each bit where 30_encoding.md R46 puts it: the fixed bits
of a malformed row are those its name gives, those of another row the ones of its masks. A short frame has
none (R51, step 1). -/
def encodeWord : Instr → Option FrameWord
  | .unrecognizedShort _ => none
  | .unrecognizedTagB2Bit7 _ b0 b1 b2Low b3 b4 b5 => some (b0 ++ b1 ++ 0b1#1 ++ b2Low ++ b3 ++ b4 ++ b5)
  | .unrecognizedTagB2Bit6 _ b0 b1 b2High b2Low b3 b4 b5 =>
      some (b0 ++ b1 ++ b2High ++ 0b0#1 ++ b2Low ++ b3 ++ b4 ++ b5)
  | .unrecognizedTagB2Bit5 _ b0 b1 b2High b2Low b3 b4 b5 =>
      some (b0 ++ b1 ++ b2High ++ 0b1#1 ++ b2Low ++ b3 ++ b4 ++ b5)
  | .unrecognizedTagB2Bit1 _ b0 b1 b2High b2Low b3 b4 b5 =>
      some (b0 ++ b1 ++ b2High ++ 0b0#1 ++ b2Low ++ b3 ++ b4 ++ b5)
  | .unrecognizedHdrB0Bit7 _ b0Low b1 b2 b3 b4 b5 => some (0b0#1 ++ b0Low ++ b1 ++ b2 ++ b3 ++ b4 ++ b5)
  | .unrecognizedHdrB0Bit5 _ b0High b0Low b1 b2 b3 b4 b5 =>
      some (b0High ++ 0b0#1 ++ b0Low ++ b1 ++ b2 ++ b3 ++ b4 ++ b5)
  | .unrecognizedHdrB0Bit4 _ b0High b0Low b1 b2 b3 b4 b5 =>
      some (b0High ++ 0b0#1 ++ b0Low ++ b1 ++ b2 ++ b3 ++ b4 ++ b5)
  | .unrecognizedHdrB0Bit1 _ b0High b0Low b1 b2 b3 b4 b5 =>
      some (b0High ++ 0b0#1 ++ b0Low ++ b1 ++ b2 ++ b3 ++ b4 ++ b5)
  | .unrecognizedHdrB1Bit7 _ b0 b1Low b2 b3 b4 b5 => some (b0 ++ 0b0#1 ++ b1Low ++ b2 ++ b3 ++ b4 ++ b5)
  | .errorFrame _ hdr b2 b3 b4Rest lambdaHi lambdaLo =>
      some (validWord hdr (Config.errOnes ||| b2) b3 (b4Rest ||| lambdaHi) lambdaLo)
  | .readingA _ hdr afHi afLo b4Rest lambdaHi lambdaLo =>
      some (validWord hdr (Config.okAOnes ||| afHi) afLo (b4Rest ||| lambdaHi) lambdaLo)
  | .readingB _ hdr afHi afLo b4Rest lambdaHi lambdaLo =>
      some (validWord hdr (Config.okBOnes ||| afHi) afLo (b4Rest ||| lambdaHi) lambdaLo)
  | .overrun4A _ hdr s0 b2Rest b3 b4 b5 =>
      some (validWord hdr (Config.tagOnes ||| 0x08 ||| selectorS0 s0 ||| b2Rest) b3 b4 b5)
  | .overrun52 _ hdr s0 b2Rest b3 b4 b5 =>
      some (validWord hdr (Config.tagOnes ||| 0x10 ||| selectorS0 s0 ||| b2Rest) b3 b4 b5)
  | .overrun5E _ hdr b2Rest b3 b4 b5 =>
      some (validWord hdr (Config.tagOnes ||| 0x1C ||| b2Rest) b3 b4 b5)

/-- The bytes presented for an instruction: its frame word's, or, for a short frame, whose bytes no decode
reads, a zero at each of its positions (log 12). -/
def encodeBytes (i : Instr) : List Byte :=
  match encodeWord i with
  | some w => frameBytes w
  | none => List.replicate i.len 0

/-- The request of an instruction: its length and its bytes as the ports present them. -/
def encode (i : Instr) : Request :=
  { len := i.len, mem := Memory.load 0 ((encodeBytes i).map some) }

/-! ### A word of spec/opcode_table.json -/

/-- The frame of a table word (log 5). The table numbers the bits of W (30_encoding.md R47), so the word is
W and byte 0 its bits 47:40; bits above `nbits` are 0. Each six-byte row of the table fixes a bit at 25 or
above, so a word of at most 24 bits is a short frame of that many bytes. -/
def tableFrame (nbits w : Nat) : List Byte :=
  if nbits ≤ 3 * Config.byteW then
    (List.range (nbits / Config.byteW)).map fun k =>
      BitVec.ofNat Config.byteW (w >>> (Config.byteW * (nbits / Config.byteW - 1 - k)))
  else frameBytes (BitVec.ofNat Config.frameW (w % 2 ^ nbits))

/-- The request that lays a table word out on the ports. -/
def tableRequest (nbits w : Nat) : Request := Request.ofFrame (tableFrame nbits w)

/-- The instruction the decoder reads from a table word. -/
def decodeTableWord (nbits w : Nat) : Option Instr :=
  match decode (tableRequest nbits w) with
  | .ok i => some i
  | .error _ => none

end Sys2Proof
end

