-- ==== Sys2Proof/Machine/Operands.lean ====
section
/-! DEFINITION. The bit-field extractor (43_field_extract.md) and the values computed from its fields. -/

namespace Sys2Proof.Machine

/-- AF EXTRACT: `((b2 & 1) << 7) | b3`, 8 bits (43_field_extract.md R76). -/
def airFactor (b2 b3 : Byte) : BitVec 8 :=
  ((b2 &&& Config.afHiMask) <<< Config.afHiShift) ||| b3

/-- LAMBDA EXTRACT: `((b4 & 0x3F) << 7) | b5`, 13 bits (43_field_extract.md R77). -/
def lambdaField (b4 b5 : Byte) : BitVec 13 :=
  ((b4 &&& Config.lambdaHiMask).setWidth 13 <<< Config.lambdaHiShift) ||| b5.setWidth 13

/-- PRODUCT: `(lambda + 500) * af`, an exact integer (43_field_extract.md R78). -/
def product (lambda : BitVec 13) (af : BitVec 8) : Nat :=
  (lambda.toNat + Config.lambdaOffset) * af.toNat

/-- AFR COMPUTE: one binary64 division of the exact product (44_result.md R81). -/
def afrQuotient (prod : Nat) : F64 := divF64 (toF64 prod) (toF64 Config.afrDivisor)

/-- The signed code of an ERROR response as a binary64: `toF64(0 - lambda)` (44_result.md R80). -/
def errorValue (lambda : BitVec 13) : F64 := toF64 (0 - (lambda.toNat : Int))

end Sys2Proof.Machine
end

