-- ==== Sys2Proof/Machine/State.lean ====
section
/-! DEFINITION. The state of the block as plain data: its in-flight requests, its ports, the signals of the
decode under way, the inputs its environment will drive, and its reset values (10_state.md). -/

namespace Sys2Proof.Machine

/-- Why the machine stops. The block itself raises nothing (60_exceptions.md R92). -/
inductive Fault where
  /-- The step met a request with no value at a position the decode must read, which 10_state.md R21 rules
  out. 00_scope.md R11: "reading any other position is a fault of the model, not a value". Safe: the
  machine stops where no hardware request can be (log 6). -/
  | readOutsideFrame (pos : Nat)
deriving DecidableEq, Repr

/-- Why an instruction has no meaning. No instruction of this hardware is refused. -/
inductive Refusal where
  /-- Raised by a dispatch arm of an instruction with no meaning yet; there is none. Safe. -/
  | notModelled (mnemonic : String)
deriving DecidableEq, Repr

/-- The malformed sub-causes (10_state.md R24). -/
inductive Cause where
  | short
  | badTag
  | badHdr
deriving DecidableEq, Repr

/-- The response in tagged form (44_result.md R87). -/
inductive Tagged where
  | unrecognized (cause : Cause)
  | error (lambda : BitVec 13)
  | reading (afr : F64) (af : BitVec 8) (lambda : BitVec 13) (clamped : Bool)
  | overrun
deriving DecidableEq, Repr

/-- The output ports while `out_valid` = 1 (10_state.md R22). -/
structure Response where
  /-- `out_value`. -/
  value : F64
  /-- `out_class`, encoded by R23. -/
  cls : BitVec 2
  /-- `out_cause`, encoded by R24. -/
  cause : BitVec 2
  /-- `out_lambda`. -/
  lambda : BitVec 13
  /-- `out_af`. -/
  af : BitVec 8
  /-- `out_clamped`. -/
  clamped : BitVec 1
deriving DecidableEq, Repr

/-- The transaction-local signals of one decode; one its path does not reach has no value (10_state.md R18). -/
structure Signals where
  lenOk : Option Bool
  tagOk : Option Bool
  hdrOk : Option Bool
  isErr : Option Bool
  isOkA : Option Bool
  isOkB : Option Bool
  isOk : Option Bool
  lambda : Option (BitVec 13)
  af : Option (BitVec 8)
  prod : Option (BitVec 22)
  afrRaw : Option F64
  clamped : Option Bool
deriving DecidableEq, Repr

/-- Between decodes no signal exists (10_state.md R18, R29). -/
def Signals.absent : Signals :=
  { lenOk := none, tagOk := none, hdrOk := none, isErr := none, isOkA := none, isOkB := none, isOk := none,
    lambda := none, af := none, prod := none, afrRaw := none, clamped := none }

/-- What the transport drives on the input ports in one clock cycle (10_state.md R19 to R21;
70_reset_and_hazards.md R106). A byte port that carries no value is `none`. -/
structure InPorts where
  /-- Reset is asserted in this cycle. -/
  reset : Bool
  /-- `in_valid`. -/
  inValid : Bool
  /-- `in_len`. -/
  inLen : Nat
  inB0 : Option Byte
  inB1 : Option Byte
  inB2 : Option Byte
  inB3 : Option Byte
  inB4 : Option Byte
  inB5 : Option Byte
deriving DecidableEq, Repr

/-- A cycle in which nothing is presented. -/
def InPorts.idle : InPorts :=
  { reset := false, inValid := false, inLen := 0, inB0 := none, inB1 := none, inB2 := none, inB3 := none,
    inB4 := none, inB5 := none }

/-- A request in flight, with the cycles it still has to wait (10_state.md R28; 70_reset_and_hazards.md R114). -/
structure Pending where
  req : Request
  wait : Nat
deriving DecidableEq, Repr

/-- The machine between two clock cycles; `out`, `inReady` and `sig` are the cycle just past. -/
structure State where
  /-- The implementation's open parameters (00_scope.md R7). No step writes them (log 1). -/
  params : Params
  /-- What the environment drives in the coming cycles, head first; past its end, idle cycles (log 13). -/
  stream : List InPorts
  /-- The FIFO of accepted and not yet answered requests, oldest first (10_state.md R28). -/
  pending : List Pending
  /-- The signals of the decode answered in this cycle (10_state.md R18, log 16). -/
  sig : Signals
  /-- The output ports; `none` is `out_valid` = 0, with no port carrying a value (10_state.md R22, R27). -/
  out : Option Response
  /-- The port `in_ready`, absent where the implementation has none (10_state.md R19). -/
  inReady : Option Bool
  /-- How many more cycles `in_ready` may be withheld since reset; `none` once it has been 1 (R29, log 3). -/
  readyDue : Option Nat
  /-- The model's own counter, for the free values of `in_ready` only (log 14). -/
  cycle : Nat
deriving DecidableEq, Repr

/-- Reset values for an implementation (10_state.md R29): nothing in flight, `out_valid` = 0, no signal,
and `in_ready`, where present, unspecified (log 3). -/
def State.resetWith (p : Params) : State :=
  { params := p
    stream := []
    pending := []
    sig := Signals.absent
    out := none
    inReady := if p.hasReady then some (Config.freeReady p.readySeed 0 0) else none
    readyDue := some p.readyBound
    cycle := 0 }

/-- The machine right after reset, of an implementation nothing is known of (log 1). -/
def State.reset : State := State.resetWith Config.params

end Sys2Proof.Machine
end

