-- ==== Sys2Proof/Machine/Signals.lean ====
section
/-! DEFINITION. Which transaction-local signals a decode reaches, and their values (10_state.md R18). -/

namespace Sys2Proof.Machine

/-- The validator's signals, up to the check that fails (41_frame_validation.md R66). -/
def Signals.malformed : Cause → Signals
  | .short => { Signals.absent with lenOk := some false }
  | .badTag => { Signals.absent with lenOk := some true, tagOk := some false }
  | .badHdr => { Signals.absent with lenOk := some true, tagOk := some true, hdrOk := some false }

/-- The three checks passed (41_frame_validation.md R68). -/
def Signals.valid : Signals :=
  { Signals.absent with lenOk := some true, tagOk := some true, hdrOk := some true }

/-- The ERROR path: `is_err` and `lambda` (42_payload_demux.md R69; 43_field_extract.md R79). -/
def Signals.error (lambda : BitVec 13) : Signals :=
  { Signals.valid with isErr := some true, lambda := some lambda }

/-- The signals after the error pattern fails: both OK patterns are tested (42_payload_demux.md R72). -/
def Signals.notError (okA okB : Bool) : Signals :=
  { Signals.valid with isErr := some false, isOkA := some okA, isOkB := some okB, isOk := some (okA || okB) }

/-- The READING path: every field, the product, the quotient and the clamp (43_field_extract.md R79). -/
def Signals.reading (okA okB : Bool) (af : BitVec 8) (lambda : BitVec 13) : Signals :=
  let raw := afrQuotient (product lambda af)
  { Signals.notError okA okB with
    lambda := some lambda, af := some af, prod := some (BitVec.ofNat 22 (product lambda af)),
    afrRaw := some raw, clamped := some (clampedFlag raw) }

/-- The OVERRUN path: no field (42_payload_demux.md R73). -/
def Signals.overrun : Signals := Signals.notError false false

end Sys2Proof.Machine
end

