-- ==== Sys2Proof/Machine/Ops.lean ====
section
/-! DEFINITION. The named operations of the block: projecting a tagged response onto the ports, answering,
sampling a request, opening a clock cycle, and taking reset. The block takes no exception and returns from
none (60_exceptions.md R92, R96, R97), so there is no such operation. -/

namespace Sys2Proof.Machine

/-- `out_cause` codes (10_state.md R24); 0 is NONE. -/
def Cause.code : Cause → BitVec 2
  | .short => 1#2
  | .badTag => 2#2
  | .badHdr => 3#2

/-- The legacy value of a tagged response (44_result.md R87). -/
def Tagged.value : Tagged → F64
  | .unrecognized _ => 0
  | .error lambda => errorValue lambda
  | .reading afr _ _ _ => afr
  | .overrun => Config.maxAfr

/-- `out_class` codes (10_state.md R23). -/
def Tagged.classCode : Tagged → BitVec 2
  | .unrecognized _ => 0#2
  | .reading _ _ _ _ => 1#2
  | .error _ => 2#2
  | .overrun => 3#2

/-- The port form of a tagged response (44_result.md R87; 10_state.md R23 to R26): a field its class does not
reach carries 0. -/
def Tagged.project (t : Tagged) : Response :=
  match t with
  | .unrecognized cause =>
      { value := t.value, cls := t.classCode, cause := cause.code, lambda := 0#13, af := 0#8, clamped := 0#1 }
  | .error lambda =>
      { value := t.value, cls := t.classCode, cause := 0#2, lambda := lambda, af := 0#8, clamped := 0#1 }
  | .reading _ af lambda clamped =>
      { value := t.value, cls := t.classCode, cause := 0#2, lambda := lambda, af := af,
        clamped := BitVec.ofBool clamped }
  | .overrun =>
      { value := t.value, cls := t.classCode, cause := 0#2, lambda := 0#13, af := 0#8, clamped := 0#1 }

/-- The tagged READING of two fields: division, then clamp (44_result.md R81, R82, R84). -/
def Tagged.ofFields (af : BitVec 8) (lambda : BitVec 13) : Tagged :=
  let raw := afrQuotient (product lambda af)
  .reading (clampAfr raw) af lambda (clampedFlag raw)

/-- Present a response on the output ports in this cycle, with the signals of its decode (10_state.md R22). -/
def State.answer (sig : Signals) (t : Tagged) (s : State) : State :=
  { s with sig := sig, out := some t.project }

/-- MALFORMED outcome (41_frame_validation.md R67). -/
def State.answerMalformed (cause : Cause) (s : State) : State :=
  s.answer (Signals.malformed cause) (.unrecognized cause)

/-- ERROR response (44_result.md R80). -/
def State.answerError (lambda : BitVec 13) (s : State) : State :=
  s.answer (Signals.error lambda) (.error lambda)

/-- READING response (44_result.md R84); the flags say which OK pattern matched. -/
def State.answerReading (okA okB : Bool) (af : BitVec 8) (lambda : BitVec 13) (s : State) : State :=
  s.answer (Signals.reading okA okB af lambda) (Tagged.ofFields af lambda)

/-- OVERRUN response (44_result.md R85). -/
def State.answerOverrun (s : State) : State := s.answer Signals.overrun .overrun

/-! ### The clock cycle -/

/-- The snapshot of the input ports (20_memory.md R41). -/
def InPorts.request (inp : InPorts) : Request :=
  { len := inp.inLen, mem := Memory.load 0 [inp.inB0, inp.inB1, inp.inB2, inp.inB3, inp.inB4, inp.inB5] }

/-- How the transport presents a frame: its length saturated at `2^LEN_W - 1`, and a byte at each port
whose position the frame has (10_state.md R20, R21). -/
def InPorts.present (p : Params) (frame : List Byte) : InPorts :=
  { reset := false, inValid := true, inLen := min frame.length (2 ^ p.lenW - 1),
    inB0 := frame[0]?, inB1 := frame[1]?, inB2 := frame[2]?, inB3 := frame[3]?, inB4 := frame[4]?,
    inB5 := frame[5]? }

/-- The inputs of the coming cycle (log 13). -/
def State.nextInputs (s : State) : InPorts := s.stream.headD InPorts.idle

/-- What the block would drive on `in_ready` in the coming cycle: free, but 1 at the latest when the bound
since reset runs out (10_state.md R29, log 3). -/
def State.readyValue (s : State) : Bool :=
  match s.readyDue with
  | some 0 => true
  | _ => Config.freeReady s.params.readySeed (s.cycle + 1) s.pending.length

/-- The request accepted in the coming cycle, if any: `in_valid`, and `in_ready` where present; none while
reset is asserted (10_state.md R19; 70_reset_and_hazards.md R106). -/
def State.accepted (s : State) : Option Request :=
  if !s.nextInputs.reset && s.nextInputs.inValid && (!s.params.hasReady || s.readyValue) then
    some s.nextInputs.request
  else none

/-- The port `in_ready` in a cycle with this value (10_state.md R19). -/
def State.readyPort (s : State) : Option Bool := if s.params.hasReady then some s.readyValue else none

/-- How long `in_ready` may still be withheld after the coming cycle (10_state.md R29, log 3). -/
def State.nextReadyDue (s : State) : Option Nat :=
  if s.readyValue then none else s.readyDue.map (· - 1)

/-- The FIFO one cycle on: each entry waits one cycle less, and what is accepted joins at the end with the
full DECODE_LATENCY to wait (10_state.md R28; 70_reset_and_hazards.md R114). -/
def State.nextPending (s : State) : List Pending :=
  s.pending.map (fun p => { p with wait := p.wait - 1 }) ++
    (s.accepted.toList.map fun r => { req := r, wait := s.params.decodeLatency })

/-- The coming cycle with its inputs sampled and no response yet presented (20_memory.md R41). -/
def State.openCycle (s : State) : State :=
  { params := s.params
    stream := s.stream.tail
    pending := s.nextPending
    sig := Signals.absent
    out := none
    inReady := s.readyPort
    readyDue := s.nextReadyDue
    cycle := s.cycle + 1 }

/-- A cycle with reset asserted: every request in flight is discarded, `out_valid` is 0, nothing is accepted
(70_reset_and_hazards.md R106). `in_ready` is unspecified (10_state.md R29). -/
def State.takeReset (s : State) : State :=
  { params := s.params
    stream := s.stream.tail
    pending := []
    sig := Signals.absent
    out := none
    inReady := if s.params.hasReady then some (Config.freeReady s.params.readySeed (s.cycle + 1) 0) else none
    readyDue := some s.params.readyBound
    cycle := s.cycle + 1 }

end Sys2Proof.Machine
end

