-- ==== Sys2Proof/Machine/Payload.lean ====
section
/-! DEFINITION. The meanings of the six rows the payload demultiplexer answers (42_payload_demux.md,
44_result.md). A meaning takes the bytes its response depends on (20_memory.md R32), and the extractor applies
its masks to them. -/

namespace Sys2Proof.Machine

/-- ERROR_FRAME (R69, R77, R80). -/
def execErrorFrame (lambdaHi lambdaLo : Byte) (s : State) : Host.Outcome State Fault Refusal :=
  .next (s.answerError (lambdaField lambdaHi lambdaLo))

/-- READING_A (R70, R76 to R78, R81, R82, R84). Byte 2 is the pattern's ones and the bits it leaves free. -/
def execReadingA (afHi afLo lambdaHi lambdaLo : Byte) (s : State) : Host.Outcome State Fault Refusal :=
  .next (s.answerReading true false (airFactor (Config.okAOnes ||| afHi) afLo) (lambdaField lambdaHi lambdaLo))

/-- READING_B (R71, R76 to R78, R81, R82, R84). Byte 2 is the pattern's ones and the bits it leaves free. -/
def execReadingB (afHi afLo lambdaHi lambdaLo : Byte) (s : State) : Host.Outcome State Fault Refusal :=
  .next (s.answerReading false true (airFactor (Config.okBOnes ||| afHi) afLo) (lambdaField lambdaHi lambdaLo))

/-- OVERRUN_4A (R73, R85). -/
def execOverrun4A (s : State) : Host.Outcome State Fault Refusal := .next s.answerOverrun

/-- OVERRUN_52 (R73, R85). -/
def execOverrun52 (s : State) : Host.Outcome State Fault Refusal := .next s.answerOverrun

/-- OVERRUN_5E (R73, R85). -/
def execOverrun5E (s : State) : Host.Outcome State Fault Refusal := .next s.answerOverrun

end Sys2Proof.Machine
end

