-- ==== Sys2Proof/Machine/Validation.lean ====
section
/-! DEFINITION. The meanings of the ten rows the frame validator answers (41_frame_validation.md). No byte
reaches a meaning: the response depends on the cause alone (R67). -/

namespace Sys2Proof.Machine

/-- UNRECOGNIZED_SHORT (R63, R67). -/
def execUnrecognizedShort (s : State) : Host.Outcome State Fault Refusal := .next (s.answerMalformed .short)

/-- UNRECOGNIZED_TAG_B2BIT7_1 (R64, R67). -/
def execUnrecognizedTagB2Bit7 (s : State) : Host.Outcome State Fault Refusal := .next (s.answerMalformed .badTag)

/-- UNRECOGNIZED_TAG_B2BIT6_0 (R64, R67). -/
def execUnrecognizedTagB2Bit6 (s : State) : Host.Outcome State Fault Refusal := .next (s.answerMalformed .badTag)

/-- UNRECOGNIZED_TAG_B2BIT5_1 (R64, R67). -/
def execUnrecognizedTagB2Bit5 (s : State) : Host.Outcome State Fault Refusal := .next (s.answerMalformed .badTag)

/-- UNRECOGNIZED_TAG_B2BIT1_0 (R64, R67). -/
def execUnrecognizedTagB2Bit1 (s : State) : Host.Outcome State Fault Refusal := .next (s.answerMalformed .badTag)

/-- UNRECOGNIZED_HDR_B0BIT7_0 (R65, R67). -/
def execUnrecognizedHdrB0Bit7 (s : State) : Host.Outcome State Fault Refusal := .next (s.answerMalformed .badHdr)

/-- UNRECOGNIZED_HDR_B0BIT5_0 (R65, R67). -/
def execUnrecognizedHdrB0Bit5 (s : State) : Host.Outcome State Fault Refusal := .next (s.answerMalformed .badHdr)

/-- UNRECOGNIZED_HDR_B0BIT4_0 (R65, R67). -/
def execUnrecognizedHdrB0Bit4 (s : State) : Host.Outcome State Fault Refusal := .next (s.answerMalformed .badHdr)

/-- UNRECOGNIZED_HDR_B0BIT1_0 (R65, R67). -/
def execUnrecognizedHdrB0Bit1 (s : State) : Host.Outcome State Fault Refusal := .next (s.answerMalformed .badHdr)

/-- UNRECOGNIZED_HDR_B1BIT7_0 (R65, R67). -/
def execUnrecognizedHdrB1Bit7 (s : State) : Host.Outcome State Fault Refusal := .next (s.answerMalformed .badHdr)

end Sys2Proof.Machine
end

