-- ==== Sys2Proof/Machine/Dispatch.lean ====
section
/-! DEFINITION. The meaning of each instruction: one arm per row of spec/opcode_table.json. -/

namespace Sys2Proof.Machine

open Sys2Proof

def exec (i : Instr) (s : State) : Host.Outcome State Fault Refusal :=
  match i with
  | .unrecognizedShort _ => Sys2Proof.Machine.execUnrecognizedShort s
  | .unrecognizedTagB2Bit7 _ _ _ _ _ _ _ => Sys2Proof.Machine.execUnrecognizedTagB2Bit7 s
  | .unrecognizedTagB2Bit6 _ _ _ _ _ _ _ _ => Sys2Proof.Machine.execUnrecognizedTagB2Bit6 s
  | .unrecognizedTagB2Bit5 _ _ _ _ _ _ _ _ => Sys2Proof.Machine.execUnrecognizedTagB2Bit5 s
  | .unrecognizedTagB2Bit1 _ _ _ _ _ _ _ _ => Sys2Proof.Machine.execUnrecognizedTagB2Bit1 s
  | .unrecognizedHdrB0Bit7 _ _ _ _ _ _ _ => Sys2Proof.Machine.execUnrecognizedHdrB0Bit7 s
  | .unrecognizedHdrB0Bit5 _ _ _ _ _ _ _ _ => Sys2Proof.Machine.execUnrecognizedHdrB0Bit5 s
  | .unrecognizedHdrB0Bit4 _ _ _ _ _ _ _ _ => Sys2Proof.Machine.execUnrecognizedHdrB0Bit4 s
  | .unrecognizedHdrB0Bit1 _ _ _ _ _ _ _ _ => Sys2Proof.Machine.execUnrecognizedHdrB0Bit1 s
  | .unrecognizedHdrB1Bit7 _ _ _ _ _ _ _ => Sys2Proof.Machine.execUnrecognizedHdrB1Bit7 s
  | .errorFrame _ _ _ _ _ lambdaHi lambdaLo => Sys2Proof.Machine.execErrorFrame lambdaHi lambdaLo s
  | .readingA _ _ afHi afLo _ lambdaHi lambdaLo => Sys2Proof.Machine.execReadingA afHi afLo lambdaHi lambdaLo s
  | .readingB _ _ afHi afLo _ lambdaHi lambdaLo => Sys2Proof.Machine.execReadingB afHi afLo lambdaHi lambdaLo s
  | .overrun4A _ _ _ _ _ _ _ => Sys2Proof.Machine.execOverrun4A s
  | .overrun52 _ _ _ _ _ _ _ => Sys2Proof.Machine.execOverrun52 s
  | .overrun5E _ _ _ _ _ _ => Sys2Proof.Machine.execOverrun5E s

end Sys2Proof.Machine
end

