-- ==== Sys2Proof/Machine/Step.lean ====
section
/-! DEFINITION. One step is one clock cycle of the block's ports (log 2): sample the inputs, and answer the
oldest request if its latency has passed. -/

namespace Sys2Proof.Machine

open Sys2Proof

/-- The fault of a request that is no instruction. -/
def Fault.ofDecode : DecodeError → Fault
  | .byteAbsent pos => .readOutsideFrame pos

/-- One clock cycle. Reset asserted discards everything in flight (70_reset_and_hazards.md R106). Otherwise
the cycle opens; if the oldest request's latency has passed it leaves the FIFO, is decoded and its
instruction runs, which presents its response; if not, no response is given (10_state.md R28, R114). -/
def step (s : State) : Host.Outcome State Fault Refusal :=
  if s.nextInputs.reset then .next s.takeReset
  else
    match s.nextPending with
    | [] => .next s.openCycle
    | p :: rest =>
      if p.wait = 0 then
        match decode p.req with
        | .ok i => exec i { s.openCycle with pending := rest }
        | .error e => .fault (Fault.ofDecode e)
      else .next s.openCycle

/-- The table word placed where the next step takes its instruction from: the oldest request in flight,
due in the coming cycle, in which nothing else is presented and no reset asserted (log 5). -/
def State.withFetchWord (s : State) (nbits w : Nat) : State :=
  { s with
    stream := InPorts.idle :: s.stream
    pending := { req := tableRequest nbits w, wait := 1 } :: s.pending }

end Sys2Proof.Machine
end

