-- ==== Sys2Proof/Machine/Convert.lean ====
section
/-! DEFINITION. The abstract operation `convert` (44_result.md R86), from a frame of any length to its tagged
response by the ordered checks, with no opcode table, no FIFO and no ports. The step does not use it:
claims compare the machine with it. -/

namespace Sys2Proof.Machine

/-- The demultiplexer of a valid frame (42_payload_demux.md R74). -/
def demux (b2 b3 b4 b5 : Byte) : Tagged :=
  if isErr b2 then .error (lambdaField b4 b5)
  else if isOk b2 then Tagged.ofFields (airFactor b2 b3) (lambdaField b4 b5)
  else .overrun

/-- The tag and header checks in order, then the demultiplexer (41_frame_validation.md R66). -/
def convertBytes (b0 b1 b2 b3 b4 b5 : Byte) : Tagged :=
  if !tagOk b2 then .unrecognized .badTag
  else if !hdrOk b0 b1 then .unrecognized .badHdr
  else demux b2 b3 b4 b5

/-- The decode of a frame of this length whose first bytes are given (44_result.md R86): the length check, then the
first six bytes. Bytes that a length that passes lacks are never asked for (10_state.md R21). -/
def convertLen (len : Nat) (bytes : List Byte) : Tagged :=
  match lenOk len, bytes with
  | true, b0 :: b1 :: b2 :: b3 :: b4 :: b5 :: _ => convertBytes b0 b1 b2 b3 b4 b5
  | _, _ => .unrecognized .short

/-- `convert(frame)` (44_result.md R86): total over every length and every byte. -/
def convert (frame : List Byte) : Tagged := convertLen frame.length frame

/-- The signals of a valid frame (10_state.md R18; 42_payload_demux.md R74). -/
def demuxSignals (b2 b3 b4 b5 : Byte) : Signals :=
  if isErr b2 then Signals.error (lambdaField b4 b5)
  else if isOk b2 then Signals.reading (isOkA b2) (isOkB b2) (airFactor b2 b3) (lambdaField b4 b5)
  else Signals.notError (isOkA b2) (isOkB b2)

/-- The signals that the decode of a frame of this length reaches, by the ordered checks (10_state.md R18). -/
def convertSignalsLen (len : Nat) (bytes : List Byte) : Signals :=
  match lenOk len, bytes with
  | true, b0 :: b1 :: b2 :: b3 :: b4 :: b5 :: _ =>
      if !tagOk b2 then Signals.malformed .badTag
      else if !hdrOk b0 b1 then Signals.malformed .badHdr
      else demuxSignals b2 b3 b4 b5
  | _, _ => Signals.malformed .short

/-- The signals of `convert(frame)`. -/
def convertSignals (frame : List Byte) : Signals := convertSignalsLen frame.length frame

end Sys2Proof.Machine
end

