-- ==== Sys2Proof/Machine/Stream.lean ====
section
/-! DEFINITION. Request streams (30_encoding.md R57) as the inputs they drive, and several instances side by
side (60_exceptions.md R102). -/

namespace Sys2Proof.Machine

/-- One line of a request stream, for one instance (30_encoding.md R57). -/
inductive StreamLine where
  /-- `REQ <frame>`. -/
  | req (frame : List Byte)
  /-- `RESET`. -/
  | reset
deriving DecidableEq, Repr

/-- The cycle a line drives. A reset cycle presents no request. -/
def StreamLine.inputs (p : Params) : StreamLine → InPorts
  | .req frame => InPorts.present p frame
  | .reset => { InPorts.idle with reset := true }

/-- A machine right after reset whose environment will drive these lines, one a cycle (log 13). -/
def State.atStream (p : Params) (lines : List StreamLine) : State :=
  { State.resetWith p with stream := lines.map (StreamLine.inputs p) }

/-- Several instances, each named by a number (60_exceptions.md R102). They share nothing (log 18). -/
abbrev Instances := List (Nat × State)

/-- The state of the instance of this name. -/
def Instances.find (is : Instances) (name : Nat) : Option State := (is.find? fun x => x.1 == name).map Prod.snd

/-- One instance takes a clock cycle and the others do not move. A fault stops the one that faults. -/
def Instances.stepAt (name : Nat) : Instances → Host.Outcome Instances Fault Refusal
  | [] => .next []
  | x :: rest =>
    if x.1 = name then
      match step x.2 with
      | .next t => .next ((x.1, t) :: rest)
      | .fault f => .fault f
      | .refused r => .refused r
    else
      match Instances.stepAt name rest with
      | .next rest' => .next (x :: rest')
      | .fault f => .fault f
      | .refused r => .refused r

end Sys2Proof.Machine
end

