-- ==== Sys2Proof/Safety.lean ====
section
/-! DEFINITION. The terms claims are stated in: the transport's contract, the invariant of every cycle, the
response of one request, and what a run accepts and answers. -/

namespace Sys2Proof.Machine

open Sys2Proof

/-- The bytes a request presents, position 0 first. -/
def Request.bytes (r : Request) : List Byte := r.mem.map Prod.snd

/-- The transport's contract for one cycle: `in_len` fits LEN_W bits, and a presented request carries a byte at
exactly the positions below min(in_len, 6) (10_state.md R19 to R21). -/
structure InPorts.Wf (p : Params) (inp : InPorts) : Prop where
  len_fits : inp.inLen < 2 ^ p.lenW
  bytes_present : inp.inValid = true → inp.request.wf

/-- No cycle the environment still has to drive asserts reset. -/
def State.NoReset (s : State) : Prop := ∀ inp ∈ s.stream, inp.reset = false

/-- The output ports and signals of a cycle: no response and no signal, or those of the decode of one frame
(10_state.md R22, R27, R18). -/
def State.PortsAgree (s : State) : Prop :=
  (s.out = none ∧ s.sig = Signals.absent) ∨
    ∃ frame : List Byte, s.out = some (convert frame).project ∧ s.sig = convertSignals frame

/-- What holds between any two cycles while the transport keeps its contract. -/
structure State.Inv (s : State) : Prop where
  /-- The coming inputs keep the transport's contract. -/
  stream_wf : ∀ inp ∈ s.stream, InPorts.Wf s.params inp
  /-- Each request in flight is a snapshot in canonical form, and has at least one cycle and at most
  DECODE_LATENCY cycles to wait (R28, R41, R114). -/
  pending_wf : ∀ p ∈ s.pending, p.req.wf ∧ 1 ≤ p.wait ∧ p.wait ≤ s.params.decodeLatency
  /-- No two requests in flight are due together, and the older is due first (R28). -/
  pending_order : (s.pending.map Pending.wait).Pairwise (· < ·)
  /-- `in_ready` is there exactly where the implementation has it (R19). -/
  ready_present : s.inReady.isSome = s.params.hasReady
  /-- `in_ready` cannot be withheld beyond its bound (R29). -/
  ready_bounded : ∀ n ∈ s.readyDue, n ≤ s.params.readyBound
  /-- The ports carry the decode of one frame, or nothing. -/
  ports_agree : s.PortsAgree

/-- The machine after the instruction of a request has run, right after reset. -/
def answeredState (r : Request) : Option State :=
  match decode r with
  | .ok i =>
    match exec i State.reset with
    | .next t => some t
    | .fault _ => none
    | .refused _ => none
  | .error _ => none

/-- The response the machine gives a request. -/
def responseOf (r : Request) : Option Response := (answeredState r).bind State.out

/-- The signals of the decode of a request. -/
def signalsOf (r : Request) : Option Signals := (answeredState r).map State.sig

/-- The response of a malformed frame with this cause code (41_frame_validation.md R67). -/
def malformedResponse (causeCode : BitVec 2) : Response :=
  { value := 0, cls := 0#2, cause := causeCode, lambda := 0#13, af := 0#8, clamped := 0#1 }

/-- What the decode of a request's length and bytes answers, on the ports (44_result.md R86, R87). -/
def Request.answer (r : Request) : Response := (convertLen r.len r.bytes).project

/-- The responses presented in the next `n` cycles, in order. -/
def outputs : Nat → State → List Response
  | 0, _ => []
  | n + 1, s =>
    match step s with
    | .next t => t.out.toList ++ outputs n t
    | .fault _ => []
    | .refused _ => []

/-- The requests accepted in the next `n` cycles, in order. -/
def acceptedIn : Nat → State → List Request
  | 0, _ => []
  | n + 1, s =>
    match step s with
    | .next t => s.accepted.toList ++ acceptedIn n t
    | .fault _ => []
    | .refused _ => []

/-- A finite binary64. -/
def F64.Finite (x : F64) : Prop := F64.expo x < 2047

/-- The value of a finite binary64 as an integer number of units of 2^-1074. -/
def F64.signedUnits (x : F64) : Int := if F64.sign x then -(F64.units x : Int) else (F64.units x : Int)

end Sys2Proof.Machine
end

