-- ==== Sys2Proof/Certificates/Slice0/Obligations.lean ====
section
/-! DEFINITION. What is to be proved of the model. A machine's step is one clock cycle (log 2); a statement
over every state holds for every LEN_W, DECODE_LATENCY and `in_ready`, since State carries them (log 1, log 3). -/

open Sys2Proof Sys2Proof.Machine

/-! ### The primitives -/

/-- 40_bit_matcher.md R59, R60: what the two tests say of each bit, and their corner cases. -/
def Obligations.BitMatcherTestsEachMaskedBit : Prop :=
  (∀ byte mask : Byte, (matchOnes byte mask = true ↔ byte &&& mask = mask) ∧
    (matchZeroes byte mask = true ↔ byte &&& mask = 0#8)) ∧
  (∀ byte mask : Byte, matchOnes byte mask = true ↔
    ∀ k, mask.getLsbD k = true → byte.getLsbD k = true) ∧
  (∀ byte mask : Byte, matchZeroes byte mask = true ↔
    ∀ k, mask.getLsbD k = true → byte.getLsbD k = false) ∧
  (∀ byte : Byte, matchOnes byte 0#8 = true ∧ matchZeroes byte 0#8 = true) ∧
  (∀ byte : Byte, (matchOnes byte 0xFF#8 = true ↔ byte = 0xFF#8) ∧
    (matchZeroes byte 0xFF#8 = true ↔ byte = 0#8)) ∧
  (∀ byte mask : Byte, matchOnes byte mask = true → matchZeroes byte mask = true → mask = 0#8) ∧
  matchOnes 0x43#8 66#8 = true ∧ matchZeroes 0x43#8 188#8 = true

/-- 40_bit_matcher.md R62: a ones-mask and a zeroes-mask with no bit in common are one mask-and-match test,
and every check of the block is such a pair, with the masks and matches of R62's table (the header's two
checks have no zeroes-mask). -/
def Obligations.MaskPairIsOneMaskAndMatch : Prop :=
  (∀ byte ones zeroes : Byte, ones &&& zeroes = 0#8 →
    ((matchOnes byte ones = true ∧ matchZeroes byte zeroes = true) ↔ byte &&& (ones ||| zeroes) = ones)) ∧
  Config.tagOnes &&& Config.tagZeroes = 0#8 ∧ Config.errOnes &&& Config.errZeroes = 0#8 ∧
  Config.okAOnes &&& Config.okAZeroes = 0#8 ∧ Config.okBOnes &&& Config.okBZeroes = 0#8 ∧
  (∀ b2 : Byte, tagOk b2 = (matchOnes b2 66#8 && matchZeroes b2 160#8) ∧
    isErr b2 = (matchOnes b2 90#8 && matchZeroes b2 164#8) ∧
    isOkA b2 = (matchOnes b2 66#8 && matchZeroes b2 188#8) ∧
    isOkB b2 = (matchOnes b2 70#8 && matchZeroes b2 184#8)) ∧
  (∀ b0 b1 : Byte, hdrOk b0 b1 = (matchOnes b0 178#8 && matchOnes b1 128#8)) ∧
  (∀ b2 : Byte, (tagOk b2 = true ↔ b2 &&& 0xE2#8 = 0x42#8) ∧ (isErr b2 = true ↔ b2 &&& 0xFE#8 = 0x5A#8) ∧
    (isOkA b2 = true ↔ b2 &&& 0xFE#8 = 0x42#8) ∧ (isOkB b2 = true ↔ b2 &&& 0xFE#8 = 0x46#8)) ∧
  (∀ b0 b1 : Byte, hdrOk b0 b1 = true ↔ b0 &&& 0xB2#8 = 0xB2#8 ∧ b1 &&& 0x80#8 = 0x80#8)

/-- 43_field_extract.md R76: the air factor is 8 bits, b2 bit 0 ORed onto b3 bit 7, and only a reading has
one. -/
def Obligations.AirFactorOrsByte2Bit0IntoBit7 : Prop :=
  (∀ b2 b3 : Byte, (airFactor b2 b3).toNat = ((b2.toNat &&& 1) <<< 7) ||| b3.toNat) ∧
  (∀ b2 b3 : Byte, (airFactor b2 b3).getLsbD 7 = (b2.getLsbD 0 || b3.getLsbD 7) ∧
    ∀ k, k < 7 → (airFactor b2 b3).getLsbD k = b3.getLsbD k) ∧
  (∀ b2 b2' b3 : Byte, b3.getLsbD 7 = true → airFactor b2 b3 = airFactor b2' b3) ∧
  (∀ b2 b3 : Byte, airFactor b2 b3 = 0#8 ↔ b2.getLsbD 0 = false ∧ b3 = 0#8) ∧
  (∀ lambda : BitVec 13, (Tagged.ofFields 0#8 lambda).value = 0#64) ∧
  (∀ b0 b1 b2 b3 b4 b5 : Byte,
    (signalsOf (Request.ofFrame [b0, b1, b2, b3, b4, b5])).map Signals.af =
      some (if tagOk b2 && hdrOk b0 b1 && isOk b2 then some (airFactor b2 b3) else none)) ∧
  airFactor 0x43#8 0x13#8 = 147#8

/-- 43_field_extract.md R77: lambda is 13 bits, b4 bit 0 ORed onto b5 bit 7, b4 bits 7 and 6 ignored, and only
an error and a reading have one. -/
def Obligations.LambdaIsThirteenBits : Prop :=
  (∀ b4 b5 : Byte, (lambdaField b4 b5).toNat = ((b4.toNat &&& 0x3F) <<< 7) ||| b5.toNat ∧
    (lambdaField b4 b5).toNat ≤ 8191) ∧
  (∀ b4 b5 : Byte, (∀ k, 1 ≤ k → k ≤ 5 → (lambdaField b4 b5).getLsbD (k + 7) = b4.getLsbD k) ∧
    (lambdaField b4 b5).getLsbD 7 = (b4.getLsbD 0 || b5.getLsbD 7) ∧
    ∀ k, k < 7 → (lambdaField b4 b5).getLsbD k = b5.getLsbD k) ∧
  (∀ b4 b4' b5 : Byte, b4 &&& 0x3F#8 = b4' &&& 0x3F#8 → lambdaField b4 b5 = lambdaField b4' b5) ∧
  (∀ b0 b1 b2 b3 b4 b5 : Byte,
    (signalsOf (Request.ofFrame [b0, b1, b2, b3, b4, b5])).map Signals.lambda =
      some (if tagOk b2 && hdrOk b0 b1 && (isErr b2 || isOk b2) then some (lambdaField b4 b5) else none)) ∧
  lambdaField 0x3F#8 0x7F#8 = 8191#13 ∧ lambdaField 0xFF#8 0xFF#8 = 8191#13 ∧
  lambdaField 0x17#8 0x2F#8 = 2991#13

/-- 43_field_extract.md R78: the product is exact, fits 22 bits, is 0 for af = 0 only, and converts to
binary64 exactly. -/
def Obligations.ProductFitsTwentyTwoBits : Prop :=
  (∀ (lambda : BitVec 13) (af : BitVec 8),
    product lambda af = (lambda.toNat + 500) * af.toNat ∧ product lambda af ≤ 2216205 ∧
    (BitVec.ofNat 22 (product lambda af)).toNat = product lambda af ∧
    500 ≤ lambda.toNat + 500 ∧ lambda.toNat + 500 ≤ 8691 ∧
    (product lambda af = 0 ↔ af = 0#8) ∧
    F64.signedUnits (toF64 (product lambda af)) = (product lambda af : Int) * F64.one) ∧
  product 8191#13 255#8 = 2216205 ∧ product 2991#13 147#8 = 513177

/-- 00_scope.md R11: `toF64(k)` is finite and equal to k for every k of magnitude below 2^53. -/
def Obligations.IntegerConversionIsExact : Prop :=
  ∀ k : Int, k.natAbs < 2 ^ 53 →
    F64.Finite (toF64 k) ∧ F64.signedUnits (toF64 k) = k * F64.one ∧ F64.sign (toF64 k) = decide (k < 0) ∧
    (k = 0 → toF64 k = 0#64)

/-- 00_scope.md R11: `gtF64` is the ordered greater-than of the values, false for a NaN. -/
def Obligations.GreaterThanComparesValues : Prop :=
  ∀ x y : F64,
    ((F64.isNaN x = true ∨ F64.isNaN y = true) → gtF64 x y = false) ∧
    (F64.Finite x → F64.Finite y → (gtF64 x y = true ↔ F64.signedUnits y < F64.signedUnits x))

/-- 44_result.md R81: the quotient is a finite, non-negative binary64 nearer to prod / 10000 than any other
non-negative one, so no tie occurs. Distances are in units of 2^-1074, times 10000. -/
def Obligations.QuotientIsTheNearestBinary64 : Prop :=
  ∀ prod : Nat, prod ≤ 2216205 →
    let q := divF64 (toF64 prod) (toF64 10000)
    afrQuotient prod = q ∧ F64.Finite q ∧ F64.sign q = false ∧
    ∀ f : F64, F64.Finite f → F64.sign f = false → f ≠ q →
      ((F64.units q : Int) * 10000 - (prod : Int) * F64.one).natAbs <
        ((F64.units f : Int) * 10000 - (prod : Int) * F64.one).natAbs

/-- 44_result.md R83: rounding is monotonic, so a larger product never gives a smaller quotient. -/
def Obligations.QuotientIsMonotone : Prop :=
  ∀ p q : Nat, p ≤ q → q ≤ 2216205 → F64.signedUnits (afrQuotient p) ≤ F64.signedUnits (afrQuotient q)

/-- 44_result.md R83: the clamp in integers, its two halves, and the smallest product it clamps. -/
def Obligations.ClampThresholdInIntegers : Prop :=
  (∀ (lambda : BitVec 13) (af : BitVec 8),
    clampedFlag (afrQuotient (product lambda af)) = decide (203300 < product lambda af)) ∧
  (∀ prod : Nat, prod ≤ 203300 → F64.signedUnits (afrQuotient prod) ≤ F64.signedUnits Config.maxAfr) ∧
  afrQuotient 203300 = Config.maxAfr ∧
  (∀ prod : Nat, 203301 ≤ prod → prod ≤ 2216205 →
    F64.signedUnits (afrQuotient 203301) ≤ F64.signedUnits (afrQuotient prod)) ∧
  F64.signedUnits Config.maxAfr < F64.signedUnits (afrQuotient 203301) ∧
  product 3649#13 49#8 = 203301

/-- 44_result.md R82: the clamp is the strict comparison with MAX_AFR, no quotient is a NaN, and a value
equal to MAX_AFR is not clamped. -/
def Obligations.ClampIsStrict : Prop :=
  (∀ raw : F64, clampedFlag raw = gtF64 raw 0x4034547AE147AE14#64 ∧
    clampAfr raw = if clampedFlag raw then 0x4034547AE147AE14#64 else raw) ∧
  (∀ raw : F64, F64.Finite raw →
    (clampedFlag raw = true ↔ F64.signedUnits 0x4034547AE147AE14#64 < F64.signedUnits raw)) ∧
  clampedFlag 0x4034547AE147AE14#64 = false ∧ clampAfr 0x4034547AE147AE14#64 = 0x4034547AE147AE14#64 ∧
  (∀ (lambda : BitVec 13) (af : BitVec 8), F64.isNaN (afrQuotient (product lambda af)) = false) ∧
  clampedFlag (afrQuotient 513177) = true

/-! ### The instructions -/

/-- 41_frame_validation.md R67: the ten malformed rows. Each answers, with the response of its cause and the
signals reached up to the failing check; nothing else of the state changes, and no operand bit matters. -/
def Obligations.MalformedFramesAnswerTheirCause : Prop :=
  ∀ s : State,
    let short : State :=
      { s with sig := { Signals.absent with lenOk := some false }, out := some (malformedResponse 1#2) }
    let badTag : State :=
      { s with sig := { Signals.absent with lenOk := some true, tagOk := some false },
               out := some (malformedResponse 2#2) }
    let badHdr : State :=
      { s with sig := { Signals.absent with lenOk := some true, tagOk := some true, hdrOk := some false },
               out := some (malformedResponse 3#2) }
    (∀ len, exec (.unrecognizedShort len) s = .next short) ∧
    (∀ len b0 b1 lo b3 b4 b5, exec (.unrecognizedTagB2Bit7 len b0 b1 lo b3 b4 b5) s = .next badTag) ∧
    (∀ len b0 b1 hi lo b3 b4 b5, exec (.unrecognizedTagB2Bit6 len b0 b1 hi lo b3 b4 b5) s = .next badTag) ∧
    (∀ len b0 b1 hi lo b3 b4 b5, exec (.unrecognizedTagB2Bit5 len b0 b1 hi lo b3 b4 b5) s = .next badTag) ∧
    (∀ len b0 b1 hi lo b3 b4 b5, exec (.unrecognizedTagB2Bit1 len b0 b1 hi lo b3 b4 b5) s = .next badTag) ∧
    (∀ len lo b1 b2 b3 b4 b5, exec (.unrecognizedHdrB0Bit7 len lo b1 b2 b3 b4 b5) s = .next badHdr) ∧
    (∀ len hi lo b1 b2 b3 b4 b5, exec (.unrecognizedHdrB0Bit5 len hi lo b1 b2 b3 b4 b5) s = .next badHdr) ∧
    (∀ len hi lo b1 b2 b3 b4 b5, exec (.unrecognizedHdrB0Bit4 len hi lo b1 b2 b3 b4 b5) s = .next badHdr) ∧
    (∀ len hi lo b1 b2 b3 b4 b5, exec (.unrecognizedHdrB0Bit1 len hi lo b1 b2 b3 b4 b5) s = .next badHdr) ∧
    (∀ len b0 lo b2 b3 b4 b5, exec (.unrecognizedHdrB1Bit7 len b0 lo b2 b3 b4 b5) s = .next badHdr)

/-- 44_result.md R80: an error frame answers, with lambda as its payload and the binary64 equal to -lambda
as its value, +0.0 for lambda 0; nothing else of the state changes, and the ignored bits do not matter. -/
def Obligations.ErrorFrameAnswersMinusLambda : Prop :=
  ∀ (hi lo : Byte), ∃ (value : F64) (lambda : BitVec 13),
    (∀ len hdr b2 b3 b4Rest (s : State), exec (.errorFrame len hdr b2 b3 b4Rest hi lo) s = .next
      { s with
        sig := { Signals.absent with lenOk := some true, tagOk := some true, hdrOk := some true,
                                     isErr := some true, lambda := some lambda }
        out := some { value := value, cls := 2#2, cause := 0#2, lambda := lambda, af := 0#8, clamped := 0#1 } }) ∧
    lambda.toNat = ((hi.toNat &&& 0x3F) <<< 7) ||| lo.toNat ∧
    F64.Finite value ∧ F64.signedUnits value = -(lambda.toNat : Int) * F64.one ∧
    (lambda = 0#13 → value = 0x0000000000000000#64) ∧
    (lambda = 1#13 → value = 0xBFF0000000000000#64) ∧
    (lambda = 8191#13 → value = 0xC0BFFF0000000000#64)

/-- 44_result.md R84: a reading frame of either pattern answers, with its two fields, the clamp flag, and
the quotient or, where it exceeds the ceiling, the ceiling; the value lies in [+0.0, MAX_AFR]. Nothing
else of the state changes, and the ignored bits do not matter. -/
def Obligations.ReadingFramesAnswerClampedQuotient : Prop :=
  ∀ afHi afLo hi lo : Byte,
    ∃ (value raw : F64) (lambda : BitVec 13) (af : BitVec 8) (prod : Nat),
      let clamped := decide (203300 < prod)
      let after (okA okB : Bool) (s : State) : State :=
        { s with
          sig := { lenOk := some true, tagOk := some true, hdrOk := some true, isErr := some false,
                   isOkA := some okA, isOkB := some okB, isOk := some true, lambda := some lambda,
                   af := some af, prod := some (BitVec.ofNat 22 prod), afrRaw := some raw,
                   clamped := some clamped }
          out := some { value := value, cls := 1#2, cause := 0#2, lambda := lambda, af := af,
                        clamped := BitVec.ofBool clamped } }
      (∀ len hdr b4Rest s, exec (.readingA len hdr afHi afLo b4Rest hi lo) s = .next (after true false s)) ∧
      (∀ len hdr b4Rest s, exec (.readingB len hdr afHi afLo b4Rest hi lo) s = .next (after false true s)) ∧
      lambda.toNat = ((hi.toNat &&& 0x3F) <<< 7) ||| lo.toNat ∧
      af.toNat = ((afHi.toNat &&& 1) <<< 7) ||| afLo.toNat ∧
      prod = (lambda.toNat + 500) * af.toNat ∧ raw = divF64 (toF64 prod) (toF64 10000) ∧
      value = (if clamped then 0x4034547AE147AE14#64 else raw) ∧
      F64.Finite value ∧ F64.sign value = false ∧
      F64.signedUnits value ≤ F64.signedUnits 0x4034547AE147AE14#64 ∧
      (af = 0#8 → value = 0x0000000000000000#64)

/-- 44_result.md R85: the three overrun rows answer MAX_AFR and no field; nothing else of the state changes,
and no operand bit matters. -/
def Obligations.OverrunFramesAnswerCeiling : Prop :=
  ∀ s : State,
    let overrun : State :=
      { s with
        sig := { Signals.absent with lenOk := some true, tagOk := some true, hdrOk := some true,
                                     isErr := some false, isOkA := some false, isOkB := some false,
                                     isOk := some false }
        out := some { value := 0x4034547AE147AE14#64, cls := 3#2, cause := 0#2, lambda := 0#13, af := 0#8,
                      clamped := 0#1 } }
    (∀ len hdr s0 b2Rest b3 b4 b5, exec (.overrun4A len hdr s0 b2Rest b3 b4 b5) s = .next overrun) ∧
    (∀ len hdr s0 b2Rest b3 b4 b5, exec (.overrun52 len hdr s0 b2Rest b3 b4 b5) s = .next overrun) ∧
    (∀ len hdr b2Rest b3 b4 b5, exec (.overrun5E len hdr b2Rest b3 b4 b5) s = .next overrun)

/-! ### From a frame to its response -/

/-- 41_frame_validation.md R66, R67: the first failing check ends the decode, its cause is the one reported,
and no later check has a signal. -/
def Obligations.ValidatorReportsFirstFailure : Prop :=
  (∀ frame : List Byte, frame.length < 6 →
    responseOf (Request.ofFrame frame) = some (malformedResponse 1#2) ∧
    signalsOf (Request.ofFrame frame) = some { Signals.absent with lenOk := some false }) ∧
  (∀ (b0 b1 b2 b3 b4 b5 : Byte) (rest : List Byte),
    let r := Request.ofFrame (b0 :: b1 :: b2 :: b3 :: b4 :: b5 :: rest)
    ((matchOnes b2 66#8 && matchZeroes b2 160#8) = false →
      responseOf r = some (malformedResponse 2#2) ∧
      signalsOf r = some { Signals.absent with lenOk := some true, tagOk := some false }) ∧
    ((matchOnes b2 66#8 && matchZeroes b2 160#8) = true →
      (matchOnes b0 178#8 && matchOnes b1 128#8) = false →
      responseOf r = some (malformedResponse 3#2) ∧
      signalsOf r = some { Signals.absent with lenOk := some true, tagOk := some true, hdrOk := some false }) ∧
    ((matchOnes b2 66#8 && matchZeroes b2 160#8) = true →
      (matchOnes b0 178#8 && matchOnes b1 128#8) = true →
      responseOf r = some (demux b2 b3 b4 b5).project))

/-- 42_payload_demux.md R74: a valid frame is an ERROR, else a READING, else an OVERRUN; the error and OK
patterns never both match, so the order of the two cannot be seen. -/
def Obligations.DemultiplexerOrder : Prop :=
  (∀ (b0 b1 b2 b3 b4 b5 : Byte) (rest : List Byte), tagOk b2 = true → hdrOk b0 b1 = true →
    let r := Request.ofFrame (b0 :: b1 :: b2 :: b3 :: b4 :: b5 :: rest)
    let err := matchOnes b2 90#8 && matchZeroes b2 164#8
    let ok := (matchOnes b2 66#8 && matchZeroes b2 188#8) || (matchOnes b2 70#8 && matchZeroes b2 184#8)
    let error := some (Tagged.error (lambdaField b4 b5)).project
    let reading := some (Tagged.ofFields (airFactor b2 b3) (lambdaField b4 b5)).project
    let overrun := some Tagged.overrun.project
    responseOf r = (if err then error else if ok then reading else overrun) ∧
    responseOf r = (if ok then reading else if err then error else overrun)) ∧
  (∀ b2 : Byte, (isErr b2 = true ↔ b2 ∈ [0x5A#8, 0x5B#8]) ∧
    (isOk b2 = true ↔ b2 ∈ [0x42#8, 0x43#8, 0x46#8, 0x47#8]))

/-- 30_encoding.md R50: the outcome of every value of byte 2 in a frame of six bytes or more whose header
passes, and where af bit 7 comes from in a reading. -/
def Obligations.ClassOfEveryByte2 : Prop :=
  ∀ (b0 b1 b2 b3 b4 b5 : Byte) (rest : List Byte), hdrOk b0 b1 = true →
    ∃ r, responseOf (Request.ofFrame (b0 :: b1 :: b2 :: b3 :: b4 :: b5 :: rest)) = some r ∧
      let readings : List Byte := [0x42#8, 0x43#8, 0x46#8, 0x47#8]
      let errors : List Byte := [0x5A#8, 0x5B#8]
      let overruns : List Byte :=
        [0x4A#8, 0x4B#8, 0x4E#8, 0x4F#8, 0x52#8, 0x53#8, 0x56#8, 0x57#8, 0x5E#8, 0x5F#8]
      (b2 ∈ readings → r.cls = 1#2 ∧ r.cause = 0#2 ∧
        r.af = if b2.getLsbD 0 then b3 ||| 0x80#8 else b3) ∧
      (b2 ∈ errors → r.cls = 2#2 ∧ r.cause = 0#2) ∧
      (b2 ∈ overruns → r.cls = 3#2 ∧ r.cause = 0#2) ∧
      (b2 ∉ readings ++ errors ++ overruns → r.cls = 0#2 ∧ r.cause = 2#2)

/-- 30_encoding.md R51: the rows are those of spec/opcode_table.json, in ascending priority; the decoder, which
makes the ordered checks, takes the first row whose mask-and-match test holds; rows of one priority that
match together answer alike; the rows of priority 4 to 6 are disjoint and one of them matches whatever
reaches them; and the outcome is that of the ordered checks. R51 gives the class only: that the row taken
among several of one priority is the first in the table's order is the model's choice (log 4). -/
def Obligations.FirstMatchingRowGivesOrderedOutcome : Prop :=
  (∀ r : Request, r.len < 6 → decode r = .ok (.unrecognizedShort r.len)) ∧
  (∀ r : Request, r.wf → 6 ≤ r.len → ∃ w row, requestWord r = .ok w ∧ frameBytes w = r.bytes ∧
    classRows.find? (fun row => w &&& row.mask == row.value) = some row ∧ decode r = .ok (row.build r.len w)) ∧
  classRows.map (fun row => (row.priority, row.mask, row.value)) =
    [(2, 0x000080000000#48, 0x000080000000#48), (2, 0x000040000000#48, 0x000000000000#48),
     (2, 0x000020000000#48, 0x000020000000#48), (2, 0x000002000000#48, 0x000000000000#48),
     (3, 0x800000000000#48, 0x000000000000#48), (3, 0x200000000000#48, 0x000000000000#48),
     (3, 0x100000000000#48, 0x000000000000#48), (3, 0x020000000000#48, 0x000000000000#48),
     (3, 0x008000000000#48, 0x000000000000#48), (4, 0xB280FE000000#48, 0xB2805A000000#48),
     (5, 0xB280FE000000#48, 0xB28042000000#48), (5, 0xB280FE000000#48, 0xB28046000000#48),
     (6, 0xB280FA000000#48, 0xB2804A000000#48), (6, 0xB280FA000000#48, 0xB28052000000#48),
     (6, 0xB280FE000000#48, 0xB2805E000000#48)] ∧
  (∀ (w : FrameWord) (len : Nat), ∀ row₁ ∈ classRows, ∀ row₂ ∈ classRows, row₁.priority = row₂.priority →
    row₁.selects w = true → row₂.selects w = true →
    ∀ s, exec (row₁.build len w) s = exec (row₂.build len w) s) ∧
  (∀ w : FrameWord,
    (classRows.filter fun row => decide (4 ≤ row.priority) && row.selects w).length ≤ 1) ∧
  (∀ w : FrameWord, (∀ row ∈ classRows, row.priority ≤ 3 → row.selects w = false) →
    (classRows.filter fun row => decide (4 ≤ row.priority) && row.selects w).length = 1) ∧
  (∀ r : Request, r.wf → responseOf r = some r.answer)

/-- 42_payload_demux.md R75: every request has one outcome, and the counts of byte-2 values. -/
def Obligations.OutcomesPartitionRequests : Prop :=
  (∀ r : Request, r.wf → ∃ resp, responseOf r = some resp ∧
    ((resp.cls = 0#2 ∧ (resp.cause = 1#2 ∨ resp.cause = 2#2 ∨ resp.cause = 3#2)) ∨
      (resp.cls = 2#2 ∧ resp.cause = 0#2) ∨ (resp.cls = 1#2 ∧ resp.cause = 0#2) ∨
      (resp.cls = 3#2 ∧ resp.cause = 0#2))) ∧
  (∀ b0 b1 b3 b4 b5 : Byte, ∀ rest : List Byte, hdrOk b0 b1 = true →
    let count (cls cause : BitVec 2) : Nat := (List.range 256).countP fun n =>
      decide ((responseOf (Request.ofFrame
        (b0 :: b1 :: BitVec.ofNat 8 n :: b3 :: b4 :: b5 :: rest))).map (fun x => (x.cls, x.cause))
          = some (cls, cause))
    count 0#2 2#2 = 240 ∧ count 2#2 0#2 = 2 ∧ count 1#2 0#2 = 4 ∧ count 3#2 0#2 = 10)

/-- 10_state.md R18: which signals a decode reaches, and their values. -/
def Obligations.SignalsReachedByPath : Prop :=
  (∀ r : Request, r.len < 6 → signalsOf r = some { Signals.absent with lenOk := some false }) ∧
  (∀ (b0 b1 b2 b3 b4 b5 : Byte) (rest : List Byte),
    let valid := tagOk b2 && hdrOk b0 b1
    let ok := valid && (!isErr b2 && isOk b2)
    let lambda := lambdaField b4 b5
    let af := airFactor b2 b3
    let raw := divF64 (toF64 (product lambda af)) (toF64 10000)
    signalsOf (Request.ofFrame (b0 :: b1 :: b2 :: b3 :: b4 :: b5 :: rest)) = some
      { lenOk := some true
        tagOk := some (tagOk b2)
        hdrOk := if tagOk b2 then some (hdrOk b0 b1) else none
        isErr := if valid then some (isErr b2) else none
        isOkA := if valid && !isErr b2 then some (isOkA b2) else none
        isOkB := if valid && !isErr b2 then some (isOkB b2) else none
        isOk := if valid && !isErr b2 then some (isOk b2) else none
        lambda := if valid && (isErr b2 || isOk b2) then some lambda else none
        af := if ok then some af else none
        prod := if ok then some (BitVec.ofNat 22 (product lambda af)) else none
        afrRaw := if ok then some raw else none
        clamped := if ok then some (decide (203300 < product lambda af)) else none })

/-- 44_result.md R88: the four forms of the legacy value; it is never NaN, infinite or -0.0. -/
def Obligations.LegacyValueForms : Prop :=
  ∀ r : Request, r.wf → ∃ resp, responseOf r = some resp ∧
    (resp.value = 0#64 ∨
      (∃ k : Nat, 1 ≤ k ∧ k ≤ 8191 ∧ F64.signedUnits resp.value = -(k : Int) * F64.one) ∨
      (∃ (p : Nat) (lambda : BitVec 13) (af : BitVec 8), 1 ≤ p ∧ p ≤ 203300 ∧
        p = (lambda.toNat + 500) * af.toNat ∧ resp.value = divF64 (toF64 p) (toF64 10000)) ∨
      resp.value = 0x4034547AE147AE14#64) ∧
    F64.isNaN resp.value = false ∧ F64.isInf resp.value = false ∧ resp.value ≠ 0x8000000000000000#64

/-- 44_result.md R89: which responses share +0.0, and which share F64(20.33); and the sign tells an error
from a reading only for lambda above 0. -/
def Obligations.LegacyValueCollisions : Prop :=
  ∀ r : Request, r.wf → ∃ resp, responseOf r = some resp ∧
    (resp.value = 0x0000000000000000#64 ↔
      resp.cls = 0#2 ∨ (resp.cls = 2#2 ∧ resp.lambda = 0#13) ∨ (resp.cls = 1#2 ∧ resp.af = 0#8)) ∧
    (resp.value = 0x4034547AE147AE14#64 ↔
      resp.cls = 3#2 ∨ (resp.cls = 1#2 ∧ resp.clamped = 1#1) ∨
      (resp.cls = 1#2 ∧ resp.clamped = 0#1 ∧ product resp.lambda resp.af = 203300)) ∧
    (F64.sign resp.value = true ↔ resp.cls = 2#2 ∧ resp.lambda ≠ 0#13)

/-- 20_memory.md R32: a bit not listed for an outcome has no effect on its response. -/
def Obligations.UnlistedBitsHaveNoEffect : Prop :=
  (∀ f g : List Byte, f.length < 6 → g.length < 6 →
    responseOf (Request.ofFrame f) = responseOf (Request.ofFrame g)) ∧
  (∀ (b0 b1 b2 b3 b4 b5 c0 c1 c2 c3 c4 c5 : Byte) (f g : List Byte),
    let same := responseOf (Request.ofFrame (b0 :: b1 :: b2 :: b3 :: b4 :: b5 :: f)) =
      responseOf (Request.ofFrame (c0 :: c1 :: c2 :: c3 :: c4 :: c5 :: g))
    let tagBits := b2 &&& 0xE2#8 = c2 &&& 0xE2#8
    let classBits := b2 &&& 0xFE#8 = c2 &&& 0xFE#8
    let hdrBits := b0 &&& 0xB2#8 = c0 &&& 0xB2#8 ∧ b1 &&& 0x80#8 = c1 &&& 0x80#8
    let lambdaBits := b4 &&& 0x3F#8 = c4 &&& 0x3F#8 ∧ b5 = c5
    (tagOk b2 = false → tagBits → same) ∧
    (tagOk b2 = true → hdrOk b0 b1 = false → tagBits → hdrBits → same) ∧
    (tagOk b2 = true → hdrOk b0 b1 = true → isErr b2 = true → hdrBits → classBits → lambdaBits → same) ∧
    (tagOk b2 = true → hdrOk b0 b1 = true → isOk b2 = true →
      hdrBits → b2 = c2 → b3 = c3 → lambdaBits → same) ∧
    (tagOk b2 = true → hdrOk b0 b1 = true → isErr b2 = false → isOk b2 = false →
      hdrBits → classBits → same))

/-- 20_memory.md R31: the decode reads no position of a short frame and none but 0 to 5 of any other, and
no instruction writes a byte of a frame in flight. -/
def Obligations.DecodeReadsFirstSixPositionsOnly : Prop :=
  (∀ r r' : Request, r.len = r'.len → (6 ≤ r.len → ∀ k, k < 6 → r.memRead k = r'.memRead k) →
    decode r = decode r') ∧
  (∀ r r' : Request, r.len = r'.len → r.len < 6 → decode r = decode r') ∧
  (∀ (i : Instr) (s t : State), exec i s = .next t → t.pending = s.pending)

/-- 44_result.md R90: two cycles that answer requests of one length and the same bytes 0 to 5 present the
same response on every port, whatever else is in flight, came before or comes next. -/
def Obligations.ResponseDependsOnRequestAlone : Prop :=
  ∀ (s₁ s₂ : State) (p₁ p₂ : Pending) (rest₁ rest₂ : List Pending) (t₁ : State),
    s₁.nextInputs.reset = false → s₁.nextPending = p₁ :: rest₁ → p₁.wait = 0 →
    s₂.nextInputs.reset = false → s₂.nextPending = p₂ :: rest₂ → p₂.wait = 0 →
    p₁.req.len = p₂.req.len → (∀ k, k < 6 → p₁.req.memRead k = p₂.req.memRead k) →
    step s₁ = .next t₁ → ∃ t₂, step s₂ = .next t₂ ∧ t₂.out = t₁.out ∧ t₂.sig = t₁.sig

/-! ### Encoding -/

/-- Every well-formed instruction decodes from what the encoder writes for it, and that keeps the transport's
contract. -/
def Obligations.DecodeAfterEncode : Prop :=
  ∀ i : Instr, i.wellFormed = true → (encode i).wf ∧ decode (encode i) = .ok i

/-- Every request that keeps the transport's contract decodes to a well-formed instruction of its length, and
six bytes or more encode back to the same request. -/
def Obligations.EncodeAfterDecode : Prop :=
  ∀ r : Request, r.wf → ∃ i, decode r = .ok i ∧ i.wellFormed = true ∧ i.len = r.len ∧
    (6 ≤ r.len → encode i = r)

/-- Words written out from the encodings of spec/opcode_table.json decode to the instructions they stand for. Each
six-byte word matches one row of its priority. How a word of no bits stands for a short frame is the
model's convention (log 5). -/
def Obligations.SampleWordsDecode : Prop :=
  decodeTableWord 0 0 = some (.unrecognizedShort 0) ∧
  decodeTableWord 48 0xB280C2123456 =
    some (.unrecognizedTagB2Bit7 6 0xB2#8 0x80#8 0x42#7 0x12#8 0x34#8 0x56#8) ∧
  decodeTableWord 48 0xB08042123456 =
    some (.unrecognizedHdrB0Bit1 6 0b101100#6 0#1 0x80#8 0x42#8 0x12#8 0x34#8 0x56#8) ∧
  decodeTableWord 48 0xB2805B7FC505 = some (.errorFrame 6 ⟨0#8, 0#8⟩ 1#8 0x7F#8 0xC0#8 5#8 5#8) ∧
  decodeTableWord 48 0xB2824313172F = some (.readingA 6 ⟨0#8, 2#8⟩ 1#8 0x13#8 0#8 0x17#8 0x2F#8) ∧
  decodeTableWord 48 0xB28057123456 =
    some (.overrun52 6 ⟨0#8, 0#8⟩ 1#1 1#8 0x12#8 0x34#8 0x56#8)

/-- 10_state.md R20: what `in_len` carries for a frame, that saturation loses nothing the block reads, and that
it changes no response. -/
def Obligations.PortsCarryTheFrame : Prop :=
  ∀ (p : Params) (frame : List Byte),
    let inp := InPorts.present p frame
    inp.inLen = min frame.length (2 ^ p.lenW - 1) ∧ 3 ≤ p.lenW ∧
    (6 ≤ frame.length → 6 ≤ inp.inLen) ∧ (frame.length ≤ 5 → inp.inLen = frame.length) ∧
    InPorts.Wf p inp ∧
    (∀ k, k < 6 → inp.request.memRead k = frame[k]?) ∧
    responseOf inp.request = responseOf (Request.ofFrame frame) ∧
    (∀ len : Nat, (6 ≤ len ↔ 6 ≤ inp.inLen) →
      responseOf { inp.request with len := len } = responseOf inp.request)

/-! ### The clock cycle -/

/-- A step runs the decoded instruction: where no reset is asserted and the oldest request in flight, due in
this cycle, decodes to an instruction, the step is that instruction's meaning in the cycle just opened. -/
def Obligations.StepRunsDecodedInstruction : Prop :=
  ∀ (s : State) (p : Pending) (rest : List Pending) (i : Instr),
    s.nextInputs.reset = false → s.nextPending = p :: rest → p.wait = 0 → decode p.req = .ok i →
    i.wellFormed = true →
    step s = exec i
      { params := s.params, stream := s.stream.tail, pending := rest, sig := Signals.absent, out := none,
        inReady := s.readyPort, readyDue := s.nextReadyDue, cycle := s.cycle + 1 }

/-- The table word a state is given is the very next instruction it runs, and it does not stop. -/
def Obligations.PlacedWordRunsNext : Prop :=
  ∀ (s : State) (nbits w : Nat), ∃ (i : Instr) (t : State),
    decodeTableWord nbits w = some i ∧ step (s.withFetchWord nbits w) = .next t ∧
    step (s.withFetchWord nbits w) = exec i
      { (s.withFetchWord nbits w).openCycle with
        pending := s.pending.map fun p => { p with wait := p.wait - 1 } } ∧
    t.out = responseOf (tableRequest nbits w) ∧ t.out ≠ none

/-- 44_result.md R86: in a cycle in which a request is due, the step presents what `convert` answers its
length and bytes, with the signals of its path, and the rest of the state is that of a cycle just opened. -/
def Obligations.StepAnswersConvert : Prop :=
  ∀ (s : State) (p : Pending) (rest : List Pending),
    s.nextInputs.reset = false → s.nextPending = p :: rest → p.wait = 0 → p.req.wf →
    step s = .next { s.openCycle with
      pending := rest
      out := some (convertLen p.req.len p.req.bytes).project
      sig := convertSignalsLen p.req.len p.req.bytes }

/-- A cycle with nothing due gives no response, and no signal outlives its decode. -/
def Obligations.CycleWithNothingDueIsSilent : Prop :=
  ∀ s : State, s.nextInputs.reset = false → (∀ p ∈ s.nextPending.head?, p.wait ≠ 0) →
    ∃ t, step s = .next t ∧ t.out = none ∧ t.sig = Signals.absent ∧ t.pending = s.nextPending ∧
      t.inReady = s.readyPort

/-- A position the decode reads and that carries no value stops the machine, by its number. -/
def Obligations.AbsentByteStopsTheStep : Prop :=
  ∀ (s : State) (p : Pending) (rest : List Pending) (k : Nat),
    s.nextInputs.reset = false → s.nextPending = p :: rest → p.wait = 0 → 6 ≤ p.req.len → k < 6 →
    (∀ j, j < k → p.req.memRead j ≠ none) → p.req.memRead k = none →
    step s = .fault (.readOutsideFrame k)

/-- No cycle changes the parameters or a byte of a frame in flight, each consumes one cycle of inputs, and
the model's counter advances by one. -/
def Obligations.StepLeavesFramesAndParameters : Prop :=
  ∀ s t : State, step s = .next t →
    t.params = s.params ∧ t.stream = s.stream.tail ∧ t.cycle = s.cycle + 1 ∧
    (∀ p ∈ t.pending, (∃ q ∈ s.pending, q.req = p.req ∧ p.wait = q.wait - 1) ∨
      (s.accepted = some p.req ∧ p.wait = s.params.decodeLatency)) ∧
    (∀ p ∈ t.pending, ∀ a, (∃ q ∈ s.pending, q.req.memRead a = p.req.memRead a) ∨
      s.nextInputs.request.memRead a = p.req.memRead a)

/-- 10_state.md R29: after reset nothing is in flight, no response is given and no signal exists. -/
def Obligations.ResetLeavesNothing : Prop :=
  ∀ p : Params, (State.resetWith p).pending = [] ∧ (State.resetWith p).out = none ∧
    (State.resetWith p).sig = Signals.absent ∧ ((State.resetWith p).inReady.isSome = p.hasReady) ∧
    State.reset = State.resetWith State.reset.params

/-- The invariant holds right after reset, whatever the parameters. -/
def Obligations.ResetMeetsInvariant : Prop := State.reset.Inv ∧ ∀ p : Params, (State.resetWith p).Inv

/-- Every clock cycle keeps the invariant. -/
def Obligations.StepKeepsInvariant : Prop := ∀ s t : State, s.Inv → step s = .next t → t.Inv

/-- 60_exceptions.md R92: while the transport keeps its contract, no cycle faults and none is refused. -/
def Obligations.InvariantStatesNeverStop : Prop := ∀ s : State, s.Inv → ∃ t, step s = .next t ∧ t.Inv

/-- 10_state.md R28: over any number of cycles without reset, the responses given, followed by those still due,
are those of the requests in flight before and of the requests accepted since, in acceptance order. -/
def Obligations.ResponsesInAcceptanceOrder : Prop :=
  ∀ (n : Nat) (s t : State), s.Inv → s.NoReset → Sys2Proof.core.run n s = .next t →
    outputs n s ++ t.pending.map (fun p => p.req.answer) =
      s.pending.map (fun p => p.req.answer) ++ (acceptedIn n s).map Request.answer

/-- 10_state.md R19: when a request is accepted. The snapshot of the coming inputs is accepted exactly where reset
is not asserted, `in_valid` is 1 and, where the implementation has `in_ready`, the `in_ready` that the step
then shows is 1; nothing is accepted otherwise. What is accepted joins the FIFO as its newest entry, unless
latency 0 answers it at once. -/
def Obligations.AcceptanceFollowsHandshake : Prop :=
  ∀ s t : State, step s = .next t →
    let handshake := s.nextInputs.reset = false ∧ s.nextInputs.inValid = true ∧
      (s.params.hasReady = true → t.inReady = some true)
    (handshake → s.accepted = some s.nextInputs.request) ∧ (¬ handshake → s.accepted = none) ∧
    t.inReady.isSome = s.params.hasReady ∧
    (handshake → 0 < s.params.decodeLatency →
      t.pending.getLast? = some { req := s.nextInputs.request, wait := s.params.decodeLatency })

/-- 70_reset_and_hazards.md R114, R115: a request presented in a cycle whose handshake holds is accepted, and is
answered exactly DECODE_LATENCY cycles later with the decode of the snapshot taken then, whatever the ports
carry afterwards. -/
def Obligations.AnsweredAfterDecodeLatency : Prop :=
  ∀ s u : State, s.Inv → step s = .next u → s.nextInputs.inValid = true →
    (s.params.hasReady = true → u.inReady = some true) →
    (∀ inp ∈ s.stream.take (s.params.decodeLatency + 1), inp.reset = false) →
    s.accepted = some s.nextInputs.request ∧
    ∃ t, Sys2Proof.core.run (s.params.decodeLatency + 1) s = .next t ∧ t.out = some s.nextInputs.request.answer

/-- 70_reset_and_hazards.md R106: a cycle with reset asserted discards what is in flight, gives no response and
accepts nothing; every response from then on, given or still due, is that of a request accepted after it. -/
def Obligations.ResetStartsNewStream : Prop :=
  ∀ s : State, s.Inv → s.nextInputs.reset = true →
    s.accepted = none ∧ ∃ t, step s = .next t ∧ t.pending = [] ∧ t.out = none ∧
      (t.NoReset → ∀ (n : Nat) (u : State), Sys2Proof.core.run n t = .next u →
        outputs n t ++ u.pending.map (fun p => p.req.answer) = (acceptedIn n t).map Request.answer)

/-- What was in flight and on the ports before a reset cycle never shows after it. -/
def Obligations.NothingBeforeResetShows : Prop :=
  ∀ s₁ s₂ : State, s₁.params = s₂.params → s₁.stream = s₂.stream → s₁.cycle = s₂.cycle →
    s₁.nextInputs.reset = true → ∀ n, outputs n s₁ = outputs n s₂ ∧ acceptedIn n s₁ = acceptedIn n s₂

/-- 10_state.md R29, R19: after a reset cycle, `in_ready`, where present, is 1 within a bounded number of cycles,
and a request presented in that cycle is accepted. -/
def Obligations.InReadyWithinBound : Prop :=
  ∀ s t : State, s.Inv → s.params.hasReady = true → s.nextInputs.reset = true → step s = .next t →
    t.NoReset → ∃ k u v, k ≤ s.params.readyBound ∧ Sys2Proof.core.run k t = .next u ∧ step u = .next v ∧
      v.inReady = some true ∧ (u.nextInputs.inValid = true → u.accepted = some u.nextInputs.request)

/-- 60_exceptions.md R102: a cycle of one instance leaves every other as it was. -/
def Obligations.InstancesDoNotInteract : Prop :=
  ∀ (is is' : Instances) (name : Nat), Instances.stepAt name is = .next is' →
    (∀ other, other ≠ name → is'.find other = is.find other) ∧
    (∀ s, is.find name = some s → ∃ t, step s = .next t ∧ is'.find name = some t)
end

