-- ==== Sys2Proof/Laws/Memory.lean ====
section
/-! SUPPORT. The frame's address space: every operation that makes a memory keeps the canonical form, and a
loaded position reads as the byte loaded there. -/

namespace Sys2Proof.Machine

open Sys2Proof

/-- No position below the first one loaded is listed. -/
theorem Memory.load_ge (ports : List (Option Byte)) (k : Nat) :
    ∀ a ∈ (Memory.load k ports).map Prod.fst, k ≤ a := by
  induction ports generalizing k with
  | nil => simp [Memory.load]
  | cons p ports ih =>
    have h := ih (k + 1)
    cases p with
    | none =>
      intro a ha
      exact Nat.le_of_succ_le (h a (by simpa [Memory.load] using ha))
    | some b =>
      intro a ha
      simp only [Memory.load, List.map_cons, List.mem_cons] at ha
      rcases ha with rfl | ha
      · exact Nat.le_refl _
      · exact Nat.le_of_succ_le (h a ha)

/-- Loading gives the canonical form. -/
theorem Memory.load_wf (ports : List (Option Byte)) (k : Nat) : Memory.wf (Memory.load k ports) := by
  induction ports generalizing k with
  | nil => simp [Memory.load, Memory.wf]
  | cons p ports ih =>
    cases p with
    | none => simpa [Memory.load] using ih (k + 1)
    | some b =>
      simp only [Memory.load, Memory.wf, List.map_cons, List.pairwise_cons]
      exact ⟨fun a ha => Memory.load_ge ports (k + 1) a ha, ih (k + 1)⟩

/-- A position reads as the port that stands there; past the ports, and below them, there is no value. -/
theorem Memory.read_load (ports : List (Option Byte)) (k a : Nat) :
    Memory.read (Memory.load k ports) a = if k ≤ a then (ports[a - k]?).join else none := by
  induction ports generalizing k with
  | nil => simp [Memory.load, Memory.read]
  | cons p ports ih =>
    have h := ih (k + 1)
    have hidx (hk : k + 1 ≤ a) : (p :: ports)[a - k]? = ports[a - (k + 1)]? := by
      rw [show a - k = (a - (k + 1)) + 1 by omega, List.getElem?_cons_succ]
    rcases Nat.lt_trichotomy a k with hlt | rfl | hgt
    · have hk : ¬ k ≤ a := by omega
      have hk1 : ¬ k + 1 ≤ a := by omega
      have hne : ¬ k = a := by omega
      rw [if_neg hk]
      rw [if_neg hk1] at h
      cases p with
      | none => simpa [Memory.load] using h
      | some b => simpa [Memory.load, Memory.read, hne] using h
    · cases p <;> simp_all [Memory.load, Memory.read]
    · have hk : k + 1 ≤ a := hgt
      have : k ≤ a := by omega
      have hne : ¬ k = a := by omega
      rw [if_pos this, hidx hk]
      rw [if_pos hk] at h
      cases p with
      | none => simpa [Memory.load] using h
      | some b => simpa [Memory.load, Memory.read, hne] using h

/-- Loading bytes at every port lists every position. -/
theorem Memory.load_bytes (bs : List Byte) (k : Nat) :
    (Memory.load k (bs.map some)).map Prod.fst = List.range' k bs.length := by
  induction bs generalizing k with
  | nil => rfl
  | cons b bs ih => simp [Memory.load, ih (k + 1), List.range'_succ]

/-- Loading bytes keeps them, in order. -/
theorem Memory.load_values (bs : List Byte) (k : Nat) :
    (Memory.load k (bs.map some)).map Prod.snd = bs := by
  induction bs generalizing k with
  | nil => rfl
  | cons b bs ih => simp [Memory.load, ih (k + 1)]

/-- The transport's contract implies the canonical form. -/
theorem Request.mem_wf {r : Request} (h : r.wf) : r.mem.wf := by
  unfold Memory.wf
  rw [h]
  exact List.pairwise_lt_range

/-- A memory that lists consecutive positions is the load of its bytes. -/
theorem Memory.eq_load {m : Memory} {k : Nat} (h : m.map Prod.fst = List.range' k m.length) :
    m = Memory.load k ((m.map Prod.snd).map some) := by
  induction m generalizing k with
  | nil => rfl
  | cons c m ih =>
    obtain ⟨a, b⟩ := c
    simp only [List.map_cons, List.length_cons, List.range'_succ, List.cons.injEq] at h
    obtain ⟨rfl, h⟩ := h
    exact congrArg _ (ih h)

/-- A request that keeps the contract presents min(len, 6) bytes. -/
theorem Request.length_of_wf {r : Request} (h : r.wf) : r.mem.length = min r.len 6 := by
  simpa [Config.presentedBytes] using congrArg List.length h

/-- A request that keeps the contract is the load of its bytes. -/
theorem Request.mem_of_wf {r : Request} (h : r.wf) : r.mem = Memory.load 0 ((r.mem.map Prod.snd).map some) := by
  apply Memory.eq_load
  rw [Request.length_of_wf h, ← List.range_eq_range']
  exact h

/-- A request that keeps the contract reads, at each position, the byte it lists there. -/
theorem Request.memRead_of_wf {r : Request} (h : r.wf) (k : Nat) :
    r.memRead k = (r.mem.map Prod.snd)[k]? := by
  have hl := Request.length_of_wf h
  unfold Request.memRead
  by_cases hk : k < r.len
  · rw [if_pos hk, Request.mem_of_wf h, Memory.read_load, Memory.load_values]
    rw [if_pos (Nat.zero_le k), Nat.sub_zero, List.getElem?_map (f := some)]
    cases (r.mem.map Prod.snd)[k]? <;> rfl
  · rw [if_neg hk]
    symm
    rw [List.getElem?_eq_none_iff, List.length_map]
    omega

/-- A frame, presented, keeps the contract. -/
theorem Request.ofFrame_wf (frame : List Byte) : (Request.ofFrame frame).wf := by
  unfold Request.wf Request.ofFrame
  rw [Memory.load_bytes, List.length_take, Nat.min_comm, List.range_eq_range']

/-- A snapshot of the ports is in canonical form, whatever they carry. -/
theorem InPorts.request_mem_wf (inp : InPorts) : inp.request.mem.wf := Memory.load_wf _ 0

/-- The cycle keeps every memory in canonical form: what is in flight is untouched, and what joins is a
snapshot. -/
theorem State.nextPending_mem_wf {s : State} (h : ∀ p ∈ s.pending, p.req.mem.wf) :
    ∀ p ∈ s.nextPending, p.req.mem.wf := by
  intro p hp
  rcases List.mem_append.mp hp with hp | hp
  · obtain ⟨q, hq, rfl⟩ := List.mem_map.mp hp
    exact h q hq
  · obtain ⟨r, hr, rfl⟩ := List.mem_map.mp hp
    obtain rfl : s.nextInputs.request = r := by
      unfold State.accepted at hr
      split at hr <;> simp_all
    exact InPorts.request_mem_wf _

/-- The encoder's request is in canonical form. -/
theorem encode_mem_wf (i : Instr) : (encode i).mem.wf := Memory.load_wf _ 0

/-- Nothing is in flight right after reset, so every memory is in canonical form. -/
theorem State.reset_mem_wf : ∀ p ∈ State.reset.pending, p.req.mem.wf := by
  intro p hp
  simp [State.reset, State.resetWith] at hp

/-- Beyond the frame there is no value (00_scope.md R11). -/
theorem Request.memRead_outside {r : Request} {i : Nat} (h : r.len ≤ i) : r.memRead i = none := by
  simp [Request.memRead, Nat.not_lt.mpr h]

end Sys2Proof.Machine
end

