-- ==== Sys2Proof/Laws/Decode.lean ====
section
/-! SUPPORT. From a request's bytes to its frame word. -/

namespace Sys2Proof.Machine

open Sys2Proof

/-- Bit by bit, a frame word is its bytes (30_encoding.md R47). -/
theorem getLsbD_frameWord (b0 b1 b2 b3 b4 b5 : Byte) (k : Nat) :
    (frameWord b0 b1 b2 b3 b4 b5).getLsbD k =
      if k < 8 then b5.getLsbD k else if k - 8 < 8 then b4.getLsbD (k - 8)
      else if k - 8 - 8 < 8 then b3.getLsbD (k - 8 - 8) else if k - 8 - 8 - 8 < 8 then b2.getLsbD (k - 8 - 8 - 8)
      else if k - 8 - 8 - 8 - 8 < 8 then b1.getLsbD (k - 8 - 8 - 8 - 8) else b0.getLsbD (k - 8 - 8 - 8 - 8 - 8) := by
  change BitVec.getLsbD (w := 8 + 8 + 8 + 8 + 8 + 8) (b0 ++ b1 ++ b2 ++ b3 ++ b4 ++ b5) k = _
  simp only [BitVec.getLsbD_append]

/-- Bit by bit, byte `k` of a frame word is the word's bits from `8 * (5 - k)` up. -/
theorem getLsbD_byteAt (w : FrameWord) (k j : Nat) :
    (byteAt w k).getLsbD j = (decide (j < 8) && w.getLsbD (8 * (5 - k) + j)) :=
  BitVec.getLsbD_extractLsb' ..

/-- Each byte of a frame word is the byte it was made of. -/
@[simp] theorem byteAt_frameWord (b0 b1 b2 b3 b4 b5 : Byte) :
    byteAt (frameWord b0 b1 b2 b3 b4 b5) 0 = b0 ∧ byteAt (frameWord b0 b1 b2 b3 b4 b5) 1 = b1 ∧
    byteAt (frameWord b0 b1 b2 b3 b4 b5) 2 = b2 ∧ byteAt (frameWord b0 b1 b2 b3 b4 b5) 3 = b3 ∧
    byteAt (frameWord b0 b1 b2 b3 b4 b5) 4 = b4 ∧ byteAt (frameWord b0 b1 b2 b3 b4 b5) 5 = b5 := by
  refine ⟨?_, ?_, ?_, ?_, ?_, ?_⟩ <;>
    (apply BitVec.eq_of_getLsbD_eq
     intro k (hk : k < 8)
     simp only [getLsbD_byteAt, getLsbD_frameWord, hk, decide_true, Bool.true_and]
     (repeat' split) <;> (first | omega | (congr 1; omega)))

/-- A frame word's bytes are the bytes it was made of. -/
theorem frameBytes_frameWord (b0 b1 b2 b3 b4 b5 : Byte) :
    frameBytes (frameWord b0 b1 b2 b3 b4 b5) = [b0, b1, b2, b3, b4, b5] := by
  simp [frameBytes]

/-- A frame word is the word of its bytes. -/
theorem frameWord_frameBytes (w : FrameWord) :
    frameWord (byteAt w 0) (byteAt w 1) (byteAt w 2) (byteAt w 3) (byteAt w 4) (byteAt w 5) = w := by
  apply BitVec.eq_of_getLsbD_eq
  intro k (hk : k < 48)
  simp only [getLsbD_byteAt, getLsbD_frameWord]
  (repeat' split) <;>
    (rw [decide_eq_true (by omega : _ < 8), Bool.true_and]; congr 1; omega)

/-- The bits of a byte outside a mask and the mask have none in common. -/
theorem clearBits_and (b mask : Byte) : clearBits b mask &&& mask = 0#8 := by
  unfold clearBits
  ext k hk
  simp

/-- Masking a frame word masks each byte. -/
theorem frameWord_and (b0 b1 b2 b3 b4 b5 m0 m1 m2 m3 m4 m5 : Byte) :
    frameWord b0 b1 b2 b3 b4 b5 &&& frameWord m0 m1 m2 m3 m4 m5 =
      frameWord (b0 &&& m0) (b1 &&& m1) (b2 &&& m2) (b3 &&& m3) (b4 &&& m4) (b5 &&& m5) := by
  apply BitVec.eq_of_getLsbD_eq
  intro k _
  simp only [BitVec.getLsbD_and, getLsbD_frameWord]
  (repeat' split) <;> rfl

/-- Two frame words are equal when their bytes are. -/
theorem frameWord_inj {b0 b1 b2 b3 b4 b5 c0 c1 c2 c3 c4 c5 : Byte} :
    frameWord b0 b1 b2 b3 b4 b5 = frameWord c0 c1 c2 c3 c4 c5 ↔
      b0 = c0 ∧ b1 = c1 ∧ b2 = c2 ∧ b3 = c3 ∧ b4 = c4 ∧ b5 = c5 := by
  constructor
  · intro h
    have := congrArg frameBytes h
    simpa [frameBytes_frameWord] using this
  · rintro ⟨rfl, rfl, rfl, rfl, rfl, rfl⟩; rfl

/-- A row's mask-and-match test, byte by byte. -/
theorem selects_frameWord {row : ClassRow} {m0 m1 m2 m3 m4 m5 v0 v1 v2 v3 v4 v5 : Byte}
    (hm : row.mask = frameWord m0 m1 m2 m3 m4 m5) (hv : row.value = frameWord v0 v1 v2 v3 v4 v5)
    (b0 b1 b2 b3 b4 b5 : Byte) :
    row.selects (frameWord b0 b1 b2 b3 b4 b5) = true ↔
      b0 &&& m0 = v0 ∧ b1 &&& m1 = v1 ∧ b2 &&& m2 = v2 ∧ b3 &&& m3 = v3 ∧ b4 &&& m4 = v4 ∧ b5 &&& m5 = v5 := by
  rw [ClassRow.selects, beq_iff_eq, hm, hv, frameWord_and, frameWord_inj]

/-- A read of a frame's request: the frame's byte below position 6, no value from there on. -/
theorem Request.memRead_ofFrame (frame : List Byte) (k : Nat) :
    (Request.ofFrame frame).memRead k = if k < 6 then frame[k]? else none := by
  simp only [Request.memRead, Request.ofFrame, Memory.read_load, Nat.zero_le, if_true, Nat.sub_zero,
    Config.presentedBytes, List.getElem?_map, List.getElem?_take]
  by_cases hk : k < frame.length
  · by_cases h6 : k < 6 <;> simp [hk, h6]
  · simp [hk]

/-- The bytes of a frame's request are the frame's first six. -/
theorem Request.bytes_ofFrame (frame : List Byte) :
    (Request.ofFrame frame).mem.map Prod.snd = frame.take 6 := Memory.load_values _ 0

/-- The frame word of a request of six bytes or more. -/
theorem requestWord_ofFrame (b0 b1 b2 b3 b4 b5 : Byte) (rest : List Byte) :
    requestWord (Request.ofFrame (b0 :: b1 :: b2 :: b3 :: b4 :: b5 :: rest)) =
      .ok (frameWord b0 b1 b2 b3 b4 b5) := by
  simp [requestWord, readByte, Request.memRead_ofFrame]
  rfl

/-- A row found among some rows, or else the last, is one of them. -/
theorem find_getD_mem {rows : List ClassRow} {last : ClassRow} (p : ClassRow → Bool) :
    (rows.find? p).getD last ∈ rows ++ [last] := by
  cases h : rows.find? p with
  | none => simp
  | some row => simpa using .inl (List.mem_of_find?_eq_some h)

/-- Every type-tag row answers BADTAG. -/
theorem tagRows_answer : ∀ row ∈ tagRows ++ [lastTagRow], ∀ len w s,
    exec (row.build len w) s = .next (s.answerMalformed .badTag) := by
  simp only [tagRows, List.cons_append, List.nil_append, List.forall_mem_cons]
  exact ⟨fun _ _ _ => rfl, fun _ _ _ => rfl, fun _ _ _ => rfl, fun _ _ _ => rfl, by simp⟩

/-- Every header row answers BADHDR. -/
theorem hdrRows_answer : ∀ row ∈ hdrRows ++ [lastHdrRow], ∀ len w s,
    exec (row.build len w) s = .next (s.answerMalformed .badHdr) := by
  simp only [hdrRows, List.cons_append, List.nil_append, List.forall_mem_cons]
  exact ⟨fun _ _ _ => rfl, fun _ _ _ => rfl, fun _ _ _ => rfl, fun _ _ _ => rfl, fun _ _ _ => rfl, by simp⟩

/-- Every overrun row answers OVERRUN. -/
theorem overrunRows_answer : ∀ row ∈ overrunRows ++ [lastOverrunRow], ∀ len w s,
    exec (row.build len w) s = .next s.answerOverrun := by
  simp only [overrunRows, List.cons_append, List.nil_append, List.forall_mem_cons]
  exact ⟨fun _ _ _ => rfl, fun _ _ _ => rfl, fun _ _ _ => rfl, by simp⟩

/-- Of a length, the decode asks only whether it passes the length check. -/
theorem convertLen_congr {m n : Nat} (h : lenOk m = lenOk n) (bytes : List Byte) :
    convertLen m bytes = convertLen n bytes ∧ convertSignalsLen m bytes = convertSignalsLen n bytes := by
  simp only [convertLen, convertSignalsLen, h, and_self]

/-- The decode of a request that keeps the contract is that of the frame of its bytes. -/
theorem convertLen_of_wf {r : Request} (h : r.wf) :
    convertLen r.len (r.mem.map Prod.snd) = convert (r.mem.map Prod.snd) ∧
    convertSignalsLen r.len (r.mem.map Prod.snd) = convertSignals (r.mem.map Prod.snd) := by
  refine convertLen_congr (decide_eq_decide.mpr ?_) _
  rw [List.length_map, Request.length_of_wf h]
  simp only [Config.minFrameLen]
  omega

end Sys2Proof.Machine
end

