-- ==== Sys2Proof/Laws/Float.lean ====
section
/-! SUPPORT. The fields of a packed binary64, and what rounding to nearest does. -/

namespace Sys2Proof.Machine

/-- How many binary64 patterns there are. -/
@[simp] theorem two_pow_resultW : 2 ^ Config.resultW = 2 ^ 64 := rfl

/-- How many bytes there are. -/
@[simp] theorem two_pow_byteW : 2 ^ Config.byteW = 2 ^ 8 := rfl

/-- The sign is bit 63. -/
theorem F64.sign_eq (x : F64) : F64.sign x = x.getLsbD 63 := rfl

/-- The magnitude field is bits 62:0. -/
theorem F64.mag_eq (x : F64) : F64.mag x = (x.extractLsb' 0 63).toNat := rfl

/-- A packed pattern, its width and sign bit in numbers. -/
theorem F64.pack_eq (neg : Bool) (m : Nat) :
    F64.pack neg m = BitVec.ofNat 64 (m + if neg then 2 ^ 63 else 0) := rfl

/-- Rounding to nearest misses the quotient by at most half. -/
theorem divNearest_error {n d : Nat} (hd : 0 < d) :
    2 * n ≤ 2 * (divNearest n d * d) + d ∧ 2 * (divNearest n d * d) ≤ 2 * n + d := by
  have hn : d * (n / d) + n % d = n := Nat.div_add_mod n d
  have hr : n % d < d := Nat.mod_lt n hd
  unfold divNearest
  dsimp only
  split
  · have : (n / d + 1) * d = d * (n / d) + d := by ring
    simp only [this]; omega
  · have : n / d * d = d * (n / d) := Nat.mul_comm _ _
    simp only [this]; omega

/-- Rounding to nearest is the quotient or the next number. -/
theorem divNearest_bounds (n d : Nat) : n / d ≤ divNearest n d ∧ divNearest n d ≤ n / d + 1 := by
  unfold divNearest; dsimp only; split <;> omega

/-- An exact quotient is not changed by rounding. -/
theorem divNearest_exact {d : Nat} (hd : 0 < d) (q : Nat) : divNearest (q * d) d = q := by
  simp [divNearest, Nat.mul_div_cancel q hd]
  omega

/-- The magnitude field of a packed pattern. -/
theorem F64.mag_pack {neg : Bool} {m : Nat} (h : m < 2 ^ 63) : F64.mag (F64.pack neg m) = m := by
  rw [F64.mag_eq, F64.pack_eq, BitVec.extractLsb'_toNat, BitVec.toNat_ofNat]
  cases neg <;> simp <;> omega

/-- The sign of a packed pattern. -/
theorem F64.sign_pack {neg : Bool} {m : Nat} (h : m < 2 ^ 63) : F64.sign (F64.pack neg m) = neg := by
  rw [F64.sign_eq, F64.pack_eq, BitVec.getLsbD_ofNat]
  cases neg
  · simp [Nat.testBit_lt_two_pow h]
  · rw [if_pos rfl, Nat.add_comm m, Nat.testBit_two_pow_add_eq, Nat.testBit_lt_two_pow h]
    rfl

/-- No magnitude the rounding gives exceeds infinity's. -/
theorem nearestMag_le (n d : Nat) : nearestMag n d ≤ 2047 * 2 ^ 52 := Nat.min_le_right _ _

/-- The sign of a rounded ratio is the one asked for. -/
theorem sign_ofRatio (neg : Bool) (n d : Nat) : F64.sign (ofRatio neg n d) = neg :=
  F64.sign_pack (Nat.lt_of_le_of_lt (nearestMag_le n d) (by norm_num))

/-- The exponent field of a packed pattern. -/
theorem F64.expo_pack {neg : Bool} {m : Nat} (h : m < 2 ^ 63) : F64.expo (F64.pack neg m) = m / 2 ^ 52 := by
  rw [F64.expo, F64.pack_eq, BitVec.extractLsb'_toNat, BitVec.toNat_ofNat, Nat.shiftRight_eq_div_pow]
  cases neg <;> (simp; omega)

/-- The fraction field of a packed pattern. -/
theorem F64.frac_pack (neg : Bool) (m : Nat) : F64.frac (F64.pack neg m) = m % 2 ^ 52 := by
  rw [F64.frac, F64.pack_eq, BitVec.extractLsb'_toNat, BitVec.toNat_ofNat]
  cases neg
  · simp
  · simp; omega

/-- The units of a packed finite pattern. -/
theorem F64.units_pack {neg : Bool} {m : Nat} (h : m < 2047 * 2 ^ 52) :
    F64.units (F64.pack neg m) = if m < 2 ^ 52 then m else (2 ^ 52 + m % 2 ^ 52) * 2 ^ (m / 2 ^ 52 - 1) := by
  have h63 : m < 2 ^ 63 := Nat.lt_of_lt_of_le h (by norm_num)
  unfold F64.units
  rw [F64.expo_pack h63, F64.frac_pack]
  by_cases hm : m < 2 ^ 52
  · rw [if_pos (Nat.div_eq_of_lt hm), if_pos hm, Nat.mod_eq_of_lt hm]
  · rw [if_neg, if_neg hm]
    intro h0
    exact hm ((Nat.div_eq_zero_iff_lt (by norm_num)).mp h0)

/-- Rounding keeps at most 2^53 units, and at least 2^52 where it drops digits. -/
theorem kept_bounds (n d : Nat) :
    divNearest (n * F64.one) (d * 2 ^ droppedDigits n d) ≤ 2 ^ 53 ∧
    (0 < droppedDigits n d → 2 ^ 52 ≤ divNearest (n * F64.one) (d * 2 ^ droppedDigits n d)) := by
  have hb := divNearest_bounds (n * F64.one) (d * 2 ^ droppedDigits n d)
  rw [← Nat.div_div_eq_div_mul] at hb
  have hlog : n * F64.one / d < 2 ^ (Nat.log2 (n * F64.one / d) + 1) := Nat.lt_log2_self
  have hup : n * F64.one / d < 2 ^ 53 * 2 ^ droppedDigits n d := by
    refine Nat.lt_of_lt_of_le hlog ?_
    rw [← Nat.pow_add]
    exact Nat.pow_le_pow_right (by norm_num) (by unfold droppedDigits; omega)
  have h1 : n * F64.one / d / 2 ^ droppedDigits n d < 2 ^ 53 := by
    rw [Nat.div_lt_iff_lt_mul (Nat.two_pow_pos _)]; exact hup
  refine ⟨by omega, ?_⟩
  intro ht
  have hne : n * F64.one / d ≠ 0 := by
    intro h0
    rw [droppedDigits, h0] at ht
    simp [Nat.log2_zero] at ht
  have hlo : 2 ^ 52 * 2 ^ droppedDigits n d ≤ n * F64.one / d := by
    rw [← Nat.pow_add]
    have : 52 + droppedDigits n d = Nat.log2 (n * F64.one / d) := by unfold droppedDigits at *; omega
    rw [this]
    exact Nat.log2_self_le hne
  exact Nat.le_trans ((Nat.le_div_iff_mul_le (Nat.two_pow_pos _)).mpr hlo) hb.1

/-- The units of a magnitude field made of kept digits and a dropped power. -/
theorem units_of_kept {q t : Nat} (hle : q ≤ 2 ^ 53) (hge : 0 < t → 2 ^ 52 ≤ q) :
    (if q + t * 2 ^ 52 < 2 ^ 52 then q + t * 2 ^ 52
      else (2 ^ 52 + (q + t * 2 ^ 52) % 2 ^ 52) * 2 ^ ((q + t * 2 ^ 52) / 2 ^ 52 - 1)) = q * 2 ^ t := by
  have hq53 : q < 2 ^ 52 ∨ (2 ^ 52 ≤ q ∧ q < 2 ^ 53) ∨ q = 2 ^ 53 := by omega
  rcases hq53 with hq | hq | hq
  · have ht : t = 0 := by
      by_contra h0
      exact absurd (hge (Nat.pos_of_ne_zero h0)) (Nat.not_le.mpr hq)
    subst ht
    rw [if_pos (by omega), Nat.zero_mul, Nat.add_zero, Nat.pow_zero, Nat.mul_one]
  · have e1 : (q + t * 2 ^ 52) / 2 ^ 52 = t + 1 := by omega
    have e2 : (q + t * 2 ^ 52) % 2 ^ 52 = q - 2 ^ 52 := by omega
    rw [if_neg (by omega), e1, e2, Nat.add_sub_cancel, Nat.add_sub_cancel' hq.1]
  · have e1 : (q + t * 2 ^ 52) / 2 ^ 52 = t + 2 := by omega
    have e2 : (q + t * 2 ^ 52) % 2 ^ 52 = 0 := by omega
    have e3 : 2 ^ 53 = 2 ^ 52 * 2 := by norm_num
    rw [if_neg (by omega), e1, e2, hq, Nat.add_zero, show t + 2 - 1 = 1 + t by omega, Nat.pow_add 2 1 t, e3]
    ring

/-- A finite magnitude field is the kept digits and the dropped power. -/
theorem nearestMag_eq {n d : Nat} (hf : nearestMag n d < 2047 * 2 ^ 52) :
    nearestMag n d = divNearest (n * F64.one) (d * 2 ^ droppedDigits n d) + droppedDigits n d * 2 ^ 52 := by
  unfold nearestMag at *
  rcases Nat.le_total (divNearest (n * F64.one) (d * 2 ^ droppedDigits n d) + droppedDigits n d * 2 ^ 52)
    (2047 * 2 ^ 52) with h | h
  · exact Nat.min_eq_left h
  · exact absurd (Nat.min_eq_right h) (Nat.ne_of_lt hf)

/-- The units of a ratio rounded to a finite binary64 are its kept digits, back in place. -/
theorem units_ofRatio {neg : Bool} {n d : Nat} (hf : nearestMag n d < 2047 * 2 ^ 52) :
    F64.units (ofRatio neg n d) =
      divNearest (n * F64.one) (d * 2 ^ droppedDigits n d) * 2 ^ droppedDigits n d := by
  obtain ⟨hle, hge⟩ := kept_bounds n d
  unfold ofRatio
  rw [F64.units_pack hf, nearestMag_eq hf, units_of_kept hle hge]

end Sys2Proof.Machine
end

