-- ==== Sys2Proof/Laws/State.lean ====
section
/-! SUPPORT. What each update of the state leaves in each field. -/

namespace Sys2Proof.Machine

section Answer
variable (sig : Signals) (t : Tagged) (s : State)

@[simp] theorem State.answer_params : (s.answer sig t).params = s.params := rfl
@[simp] theorem State.answer_stream : (s.answer sig t).stream = s.stream := rfl
@[simp] theorem State.answer_pending : (s.answer sig t).pending = s.pending := rfl
@[simp] theorem State.answer_sig : (s.answer sig t).sig = sig := rfl
@[simp] theorem State.answer_out : (s.answer sig t).out = some t.project := rfl
@[simp] theorem State.answer_inReady : (s.answer sig t).inReady = s.inReady := rfl
@[simp] theorem State.answer_readyDue : (s.answer sig t).readyDue = s.readyDue := rfl
@[simp] theorem State.answer_cycle : (s.answer sig t).cycle = s.cycle := rfl

end Answer

section Cycle
variable (s : State)

@[simp] theorem State.openCycle_params : s.openCycle.params = s.params := rfl
@[simp] theorem State.openCycle_stream : s.openCycle.stream = s.stream.tail := rfl
@[simp] theorem State.openCycle_pending : s.openCycle.pending = s.nextPending := rfl
@[simp] theorem State.openCycle_sig : s.openCycle.sig = Signals.absent := rfl
@[simp] theorem State.openCycle_out : s.openCycle.out = none := rfl
@[simp] theorem State.openCycle_inReady : s.openCycle.inReady = s.readyPort := rfl
@[simp] theorem State.openCycle_readyDue : s.openCycle.readyDue = s.nextReadyDue := rfl
@[simp] theorem State.openCycle_cycle : s.openCycle.cycle = s.cycle + 1 := rfl

@[simp] theorem State.takeReset_params : s.takeReset.params = s.params := rfl
@[simp] theorem State.takeReset_stream : s.takeReset.stream = s.stream.tail := rfl
@[simp] theorem State.takeReset_pending : s.takeReset.pending = [] := rfl
@[simp] theorem State.takeReset_sig : s.takeReset.sig = Signals.absent := rfl
@[simp] theorem State.takeReset_out : s.takeReset.out = none := rfl
@[simp] theorem State.takeReset_inReady :
    s.takeReset.inReady =
      if s.params.hasReady then some (Config.freeReady s.params.readySeed (s.cycle + 1) 0) else none := rfl
@[simp] theorem State.takeReset_readyDue : s.takeReset.readyDue = some s.params.readyBound := rfl
@[simp] theorem State.takeReset_cycle : s.takeReset.cycle = s.cycle + 1 := rfl

end Cycle

section Reset
variable (p : Params)

@[simp] theorem State.resetWith_params : (State.resetWith p).params = p := rfl
@[simp] theorem State.resetWith_stream : (State.resetWith p).stream = [] := rfl
@[simp] theorem State.resetWith_pending : (State.resetWith p).pending = [] := rfl
@[simp] theorem State.resetWith_sig : (State.resetWith p).sig = Signals.absent := rfl
@[simp] theorem State.resetWith_out : (State.resetWith p).out = none := rfl
@[simp] theorem State.resetWith_readyDue : (State.resetWith p).readyDue = some p.readyBound := rfl
@[simp] theorem State.resetWith_cycle : (State.resetWith p).cycle = 0 := rfl

end Reset

section Fetch
variable (s : State) (nbits w : Nat)

@[simp] theorem State.withFetchWord_params : (s.withFetchWord nbits w).params = s.params := rfl
@[simp] theorem State.withFetchWord_stream :
    (s.withFetchWord nbits w).stream = InPorts.idle :: s.stream := rfl
@[simp] theorem State.withFetchWord_pending :
    (s.withFetchWord nbits w).pending = { req := tableRequest nbits w, wait := 1 } :: s.pending := rfl
@[simp] theorem State.withFetchWord_cycle : (s.withFetchWord nbits w).cycle = s.cycle := rfl

end Fetch

@[simp] theorem State.nextInputs_nil {s : State} (h : s.stream = []) : s.nextInputs = InPorts.idle := by
  simp [State.nextInputs, h]

@[simp] theorem State.nextInputs_cons {s : State} {inp : InPorts} {rest : List InPorts}
    (h : s.stream = inp :: rest) : s.nextInputs = inp := by
  simp [State.nextInputs, h]

@[simp] theorem InPorts.idle_reset : InPorts.idle.reset = false := rfl
@[simp] theorem InPorts.idle_inValid : InPorts.idle.inValid = false := rfl

end Sys2Proof.Machine
end

