-- ==== Sys2Proof/Laws/Ops.lean ====
section
/-! SUPPORT. What the shared operations and one step can do, said once. -/

namespace Sys2Proof.Machine

open Sys2Proof

/-- Every instruction answers, and what it presents does not depend on the state. -/
theorem exec_answers (i : Instr) : ∃ sig t, ∀ s, exec i s = .next (s.answer sig t) := by
  cases i <;> exact ⟨_, _, fun _ => rfl⟩

/-- What a next state of an instruction leaves as it was. -/
theorem exec_frame {i : Instr} {s t : State} (h : exec i s = .next t) :
    t.params = s.params ∧ t.stream = s.stream ∧ t.pending = s.pending ∧ t.inReady = s.inReady ∧
      t.readyDue = s.readyDue ∧ t.cycle = s.cycle := by
  obtain ⟨sig, tg, hx⟩ := exec_answers i
  rw [hx] at h
  cases h
  exact ⟨rfl, rfl, rfl, rfl, rfl, rfl⟩

/-- What one clock cycle can do. -/
theorem step_cases (s : State) :
    (s.nextInputs.reset = true ∧ step s = .next s.takeReset) ∨
    (s.nextInputs.reset = false ∧ s.nextPending = [] ∧ step s = .next s.openCycle) ∨
    (∃ p rest, s.nextInputs.reset = false ∧ s.nextPending = p :: rest ∧ p.wait ≠ 0 ∧
      step s = .next s.openCycle) ∨
    (∃ p rest i, s.nextInputs.reset = false ∧ s.nextPending = p :: rest ∧ p.wait = 0 ∧
      decode p.req = .ok i ∧ step s = exec i { s.openCycle with pending := rest }) ∨
    (∃ p rest e, s.nextInputs.reset = false ∧ s.nextPending = p :: rest ∧ p.wait = 0 ∧
      decode p.req = .error e ∧ step s = .fault (Fault.ofDecode e)) := by
  unfold step
  split
  · exact .inl ⟨‹_›, rfl⟩
  · have hr : s.nextInputs.reset = false := Bool.eq_false_iff.mpr ‹_›
    split
    · exact .inr (.inl ⟨hr, ‹_›, rfl⟩)
    · next p rest hp =>
      by_cases hw : p.wait = 0
      · rw [if_pos hw]
        split
        · next i hd => exact .inr (.inr (.inr (.inl ⟨p, rest, i, hr, hp, hw, hd, rfl⟩)))
        · next e hd => exact .inr (.inr (.inr (.inr ⟨p, rest, e, hr, hp, hw, hd, rfl⟩)))
      · exact .inr (.inr (.inl ⟨p, rest, hr, hp, hw, by rw [if_neg hw]⟩))

/-- A response on the ports has the code of its class. -/
@[simp] theorem Tagged.project_cls (t : Tagged) : t.project.cls = t.classCode := by cases t <;> rfl

/-- A response on the ports carries its legacy value. -/
@[simp] theorem Tagged.project_value (t : Tagged) : t.project.value = t.value := by cases t <;> rfl

/-- What is accepted is the snapshot of the coming inputs, with no reset asserted. -/
theorem State.accepted_eq {s : State} {r : Request} (h : s.accepted = some r) :
    s.nextInputs.reset = false ∧ s.nextInputs.inValid = true ∧ r = s.nextInputs.request := by
  unfold State.accepted at h
  split at h
  · simp_all
  · cases h

/-- Nothing is accepted while reset is asserted. -/
theorem State.accepted_reset {s : State} (h : s.nextInputs.reset = true) : s.accepted = none := by
  simp [State.accepted, h]

/-- A run of one more cycle, from the state the first one gives. -/
theorem run_of_next (M : Host.Core) {n : Nat} {s t : M.State} (h : M.step s = .next t) :
    M.run (n + 1) s = M.run n t := by
  rw [Host.Core.run, h]

/-- A run of the block of one more cycle. -/
theorem run_next {n : Nat} {s t : State} (h : step s = .next t) :
    Sys2Proof.core.run (n + 1) s = Sys2Proof.core.run n t := run_of_next Sys2Proof.core h

/-- A short request decodes without a byte being read. -/
theorem decode_short {r : Request} (h : r.len < 6) : decode r = .ok (.unrecognizedShort r.len) := by
  have hl : lenOk r.len = false := decide_eq_false (by simpa [Config.minFrameLen] using h)
  simp [decode, hl]

end Sys2Proof.Machine
end

