-- ==== Sys2Proof/Laws/PerInstr.lean ====
section
/-! SUPPORT. The family EncodedRequest: a well-formed instruction's request keeps the transport's contract
and has the instruction's length. -/

namespace Sys2Proof.Laws

open Sys2Proof Sys2Proof.Machine

/-- The encoder gives a request that keeps the transport's contract (10_state.md R21). -/
def EncodedRequest.Statement (i : Instr) : Prop :=
  i.wellFormed = true → (encode i).wf ∧ (encode i).len = i.len

/-- A well-formed instruction that has a frame word has six bytes or more. -/
theorem EncodedRequest.lenOk_of_word {i : Instr} {w : FrameWord} (hw : encodeWord i = some w)
    (h : i.wellFormed = true) : lenOk i.len = true := by
  cases i <;> simp_all [Instr.wellFormed, encodeWord, Instr.len]

/-- An instruction whose frame word is given has six bytes presented. -/
theorem EncodedRequest.of_word {i : Instr} {w : FrameWord} (hw : encodeWord i = some w)
    (h : i.wellFormed = true) : (encode i).wf ∧ (encode i).len = i.len := by
  refine ⟨?_, rfl⟩
  have hl := EncodedRequest.lenOk_of_word hw h
  have h6 : min i.len 6 = 6 := Nat.min_eq_right (of_decide_eq_true hl : 6 ≤ i.len)
  unfold Request.wf encode encodeBytes
  rw [hw, Memory.load_bytes, List.range_eq_range']
  exact congrArg (List.range' 0) h6.symm

theorem EncodedRequest.unrecognizedShort
    (len : Nat) :
    EncodedRequest.Statement (.unrecognizedShort len) := by
  intro h
  refine ⟨?_, rfl⟩
  have hl : len < 6 := by
    have h' : lenOk len = false := by simpa [Instr.wellFormed] using h
    exact Nat.lt_of_not_le (of_decide_eq_false h')
  have hm : min len Config.presentedBytes = len := Nat.min_eq_left (Nat.le_of_lt hl)
  unfold Request.wf encode encodeBytes encodeWord Instr.len
  rw [Memory.load_bytes, List.length_replicate, List.range_eq_range', hm]

theorem EncodedRequest.unrecognizedTagB2Bit7
    (len : Nat) (b0 b1 : Byte) (b2Low : BitVec 7) (b3 b4 b5 : Byte) :
    EncodedRequest.Statement (.unrecognizedTagB2Bit7 len b0 b1 b2Low b3 b4 b5) :=
  fun h => EncodedRequest.of_word rfl h

theorem EncodedRequest.unrecognizedTagB2Bit6
    (len : Nat) (b0 b1 : Byte) (b2High : BitVec 1) (b2Low : BitVec 6) (b3 b4 b5 : Byte) :
    EncodedRequest.Statement (.unrecognizedTagB2Bit6 len b0 b1 b2High b2Low b3 b4 b5) :=
  fun h => EncodedRequest.of_word rfl h

theorem EncodedRequest.unrecognizedTagB2Bit5
    (len : Nat) (b0 b1 : Byte) (b2High : BitVec 2) (b2Low : BitVec 5) (b3 b4 b5 : Byte) :
    EncodedRequest.Statement (.unrecognizedTagB2Bit5 len b0 b1 b2High b2Low b3 b4 b5) :=
  fun h => EncodedRequest.of_word rfl h

theorem EncodedRequest.unrecognizedTagB2Bit1
    (len : Nat) (b0 b1 : Byte) (b2High : BitVec 6) (b2Low : BitVec 1) (b3 b4 b5 : Byte) :
    EncodedRequest.Statement (.unrecognizedTagB2Bit1 len b0 b1 b2High b2Low b3 b4 b5) :=
  fun h => EncodedRequest.of_word rfl h

theorem EncodedRequest.unrecognizedHdrB0Bit7
    (len : Nat) (b0Low : BitVec 7) (b1 b2 b3 b4 b5 : Byte) :
    EncodedRequest.Statement (.unrecognizedHdrB0Bit7 len b0Low b1 b2 b3 b4 b5) :=
  fun h => EncodedRequest.of_word rfl h

theorem EncodedRequest.unrecognizedHdrB0Bit5
    (len : Nat) (b0High : BitVec 2) (b0Low : BitVec 5) (b1 b2 b3 b4 b5 : Byte) :
    EncodedRequest.Statement (.unrecognizedHdrB0Bit5 len b0High b0Low b1 b2 b3 b4 b5) :=
  fun h => EncodedRequest.of_word rfl h

theorem EncodedRequest.unrecognizedHdrB0Bit4
    (len : Nat) (b0High : BitVec 3) (b0Low : BitVec 4) (b1 b2 b3 b4 b5 : Byte) :
    EncodedRequest.Statement (.unrecognizedHdrB0Bit4 len b0High b0Low b1 b2 b3 b4 b5) :=
  fun h => EncodedRequest.of_word rfl h

theorem EncodedRequest.unrecognizedHdrB0Bit1
    (len : Nat) (b0High : BitVec 6) (b0Low : BitVec 1) (b1 b2 b3 b4 b5 : Byte) :
    EncodedRequest.Statement (.unrecognizedHdrB0Bit1 len b0High b0Low b1 b2 b3 b4 b5) :=
  fun h => EncodedRequest.of_word rfl h

theorem EncodedRequest.unrecognizedHdrB1Bit7
    (len : Nat) (b0 : Byte) (b1Low : BitVec 7) (b2 b3 b4 b5 : Byte) :
    EncodedRequest.Statement (.unrecognizedHdrB1Bit7 len b0 b1Low b2 b3 b4 b5) :=
  fun h => EncodedRequest.of_word rfl h

theorem EncodedRequest.errorFrame
    (len : Nat) (hdr : HeaderFree) (b2 b3 b4Rest lambdaHi lambdaLo : Byte) :
    EncodedRequest.Statement (.errorFrame len hdr b2 b3 b4Rest lambdaHi lambdaLo) :=
  fun h => EncodedRequest.of_word rfl h

theorem EncodedRequest.readingA
    (len : Nat) (hdr : HeaderFree) (afHi afLo b4Rest lambdaHi lambdaLo : Byte) :
    EncodedRequest.Statement (.readingA len hdr afHi afLo b4Rest lambdaHi lambdaLo) :=
  fun h => EncodedRequest.of_word rfl h

theorem EncodedRequest.readingB
    (len : Nat) (hdr : HeaderFree) (afHi afLo b4Rest lambdaHi lambdaLo : Byte) :
    EncodedRequest.Statement (.readingB len hdr afHi afLo b4Rest lambdaHi lambdaLo) :=
  fun h => EncodedRequest.of_word rfl h

theorem EncodedRequest.overrun4A
    (len : Nat) (hdr : HeaderFree) (s0 : BitVec 1) (b2Rest b3 b4 b5 : Byte) :
    EncodedRequest.Statement (.overrun4A len hdr s0 b2Rest b3 b4 b5) :=
  fun h => EncodedRequest.of_word rfl h

theorem EncodedRequest.overrun52
    (len : Nat) (hdr : HeaderFree) (s0 : BitVec 1) (b2Rest b3 b4 b5 : Byte) :
    EncodedRequest.Statement (.overrun52 len hdr s0 b2Rest b3 b4 b5) :=
  fun h => EncodedRequest.of_word rfl h

theorem EncodedRequest.overrun5E
    (len : Nat) (hdr : HeaderFree) (b2Rest b3 b4 b5 : Byte) :
    EncodedRequest.Statement (.overrun5E len hdr b2Rest b3 b4 b5) :=
  fun h => EncodedRequest.of_word rfl h

end Sys2Proof.Laws
end

