-- ==== Sys2Proof/Tests/Slice0.lean ====
section
/-! SUPPORT. Small tests of single operations and steps, with results taken from spec/95_test_vectors.md or
from the encodings of spec/opcode_table.json, and, for each obligation with hypotheses, a witness that meets them. -/

namespace Sys2Proof.Tests

open Sys2Proof Sys2Proof.Machine

/-! ### WellFormed refuses what a row's frame cannot be -/

theorem test_wf_short_of_six : (Instr.unrecognizedShort 6).wellFormed = false := by decide
theorem test_wf_short_of_five : (Instr.unrecognizedShort 5).wellFormed = true := by decide
theorem test_wf_frame_of_five :
    (Instr.unrecognizedTagB2Bit7 5 0#8 0#8 0#7 0#8 0#8 0#8).wellFormed = false ∧
    (Instr.errorFrame 5 ⟨0, 0⟩ 0 0 0 0 0).wellFormed = false ∧
    (Instr.readingA 5 ⟨0, 0⟩ 0 0 0 0 0).wellFormed = false ∧
    (Instr.readingB 5 ⟨0, 0⟩ 0 0 0 0 0).wellFormed = false ∧
    (Instr.overrun4A 5 ⟨0, 0⟩ 0 0 0 0 0).wellFormed = false ∧
    (Instr.overrun52 5 ⟨0, 0⟩ 0 0 0 0 0).wellFormed = false ∧
    (Instr.overrun5E 5 ⟨0, 0⟩ 0 0 0 0).wellFormed = false := by decide
/-- A free header bit that R65 tests. -/
theorem test_wf_fixed_header_bit :
    (Instr.errorFrame 6 ⟨0x02, 0⟩ 0 0 0 0 0).wellFormed = false ∧
    (Instr.overrun5E 6 ⟨0, 0x80⟩ 0 0 0 0).wellFormed = false := by decide
/-- A free bit of byte 2 that the pattern tests, or that is a selector bit. -/
theorem test_wf_fixed_byte2_bit :
    (Instr.errorFrame 6 ⟨0, 0⟩ 0x04 0 0 0 0).wellFormed = false ∧
    (Instr.readingA 6 ⟨0, 0⟩ 0x40 0 0 0 0).wellFormed = false ∧
    (Instr.readingB 6 ⟨0, 0⟩ 0x08 0 0 0 0).wellFormed = false ∧
    (Instr.overrun4A 6 ⟨0, 0⟩ 0 0x04 0 0 0).wellFormed = false ∧
    (Instr.overrun52 6 ⟨0, 0⟩ 0 0x80 0 0 0).wellFormed = false := by decide
/-- The parts of byte 4 the wrong way round. -/
theorem test_wf_byte4_parts :
    (Instr.errorFrame 6 ⟨0, 0⟩ 0 0 0x20 0 0).wellFormed = false ∧
    (Instr.readingA 6 ⟨0, 0⟩ 0 0 0 0x40 0).wellFormed = false := by decide
theorem test_wf_earlier_tag_row :
    (Instr.unrecognizedTagB2Bit6 6 0#8 0#8 1#1 0#6 0#8 0#8 0#8).wellFormed = false ∧
    (Instr.unrecognizedTagB2Bit5 6 0#8 0#8 0b00#2 0#5 0#8 0#8 0#8).wellFormed = false ∧
    (Instr.unrecognizedTagB2Bit1 6 0#8 0#8 0b011000#6 0#1 0#8 0#8 0#8).wellFormed = false := by decide
theorem test_wf_header_row_with_bad_tag :
    (Instr.unrecognizedHdrB0Bit7 6 0#7 0#8 0x40#8 0#8 0#8 0#8).wellFormed = false ∧
    (Instr.unrecognizedHdrB1Bit7 6 0xB2#8 0#7 0x40#8 0#8 0#8 0#8).wellFormed = false := by decide
theorem test_wf_earlier_header_row :
    (Instr.unrecognizedHdrB0Bit5 6 0b01#2 0#5 0#8 0x42#8 0#8 0#8 0#8).wellFormed = false ∧
    (Instr.unrecognizedHdrB0Bit4 6 0b100#3 0#4 0#8 0x42#8 0#8 0#8 0#8).wellFormed = false ∧
    (Instr.unrecognizedHdrB0Bit1 6 0b101000#6 0#1 0#8 0x42#8 0#8 0#8 0#8).wellFormed = false ∧
    (Instr.unrecognizedHdrB1Bit7 6 0xB0#8 0#7 0x42#8 0#8 0#8 0#8).wellFormed = false := by decide

/-! ### One word of each row, its bits written out from the row's encoding -/

theorem test_decode_unrecognizedShort : decodeTableWord 0 0 = some (.unrecognizedShort 0) := by decide
theorem test_decode_unrecognizedTagB2Bit7 : decodeTableWord 48 0xB280C2123456 =
    some (.unrecognizedTagB2Bit7 6 0xB2#8 0x80#8 0b1000010#7 0x12#8 0x34#8 0x56#8) := by decide
theorem test_decode_unrecognizedTagB2Bit6 : decodeTableWord 48 0xB28012123456 =
    some (.unrecognizedTagB2Bit6 6 0xB2#8 0x80#8 0#1 0b010010#6 0x12#8 0x34#8 0x56#8) := by decide
theorem test_decode_unrecognizedTagB2Bit5 : decodeTableWord 48 0xB28062123456 =
    some (.unrecognizedTagB2Bit5 6 0xB2#8 0x80#8 0b01#2 0b00010#5 0x12#8 0x34#8 0x56#8) := by decide
theorem test_decode_unrecognizedTagB2Bit1 : decodeTableWord 48 0xB2805D123456 =
    some (.unrecognizedTagB2Bit1 6 0xB2#8 0x80#8 0b010111#6 1#1 0x12#8 0x34#8 0x56#8) := by decide
theorem test_decode_unrecognizedHdrB0Bit7 : decodeTableWord 48 0x328042123456 =
    some (.unrecognizedHdrB0Bit7 6 0b0110010#7 0x80#8 0x42#8 0x12#8 0x34#8 0x56#8) := by decide
theorem test_decode_unrecognizedHdrB0Bit5 : decodeTableWord 48 0x928042123456 =
    some (.unrecognizedHdrB0Bit5 6 0b10#2 0b10010#5 0x80#8 0x42#8 0x12#8 0x34#8 0x56#8) := by decide
theorem test_decode_unrecognizedHdrB0Bit4 : decodeTableWord 48 0xA28042123456 =
    some (.unrecognizedHdrB0Bit4 6 0b101#3 0b0010#4 0x80#8 0x42#8 0x12#8 0x34#8 0x56#8) := by decide
theorem test_decode_unrecognizedHdrB0Bit1 : decodeTableWord 48 0xB08042123456 =
    some (.unrecognizedHdrB0Bit1 6 0b101100#6 0#1 0x80#8 0x42#8 0x12#8 0x34#8 0x56#8) := by decide
theorem test_decode_unrecognizedHdrB1Bit7 : decodeTableWord 48 0xB27F42123456 =
    some (.unrecognizedHdrB1Bit7 6 0xB2#8 0x7F#7 0x42#8 0x12#8 0x34#8 0x56#8) := by decide
theorem test_decode_errorFrame : decodeTableWord 48 0xF6815B7FC505 =
    some (.errorFrame 6 ⟨0x44#8, 0x01#8⟩ 0x01#8 0x7F#8 0xC0#8 0x05#8 0x05#8) := by decide
theorem test_decode_readingA : decodeTableWord 48 0xB2824313172F =
    some (.readingA 6 ⟨0x00#8, 0x02#8⟩ 0x01#8 0x13#8 0x00#8 0x17#8 0x2F#8) := by decide
theorem test_decode_readingB : decodeTableWord 48 0xBB80468081FF =
    some (.readingB 6 ⟨0x09#8, 0x00#8⟩ 0x00#8 0x80#8 0x80#8 0x01#8 0xFF#8) := by decide
theorem test_decode_overrun4A : decodeTableWord 48 0xB2804F123456 =
    some (.overrun4A 6 ⟨0#8, 0#8⟩ 1#1 1#8 0x12#8 0x34#8 0x56#8) := by decide
theorem test_decode_overrun52 : decodeTableWord 48 0xB28056123456 =
    some (.overrun52 6 ⟨0#8, 0#8⟩ 1#1 0#8 0x12#8 0x34#8 0x56#8) := by decide
theorem test_decode_overrun5E : decodeTableWord 48 0xB2805F123456 =
    some (.overrun5E 6 ⟨0#8, 0#8⟩ 1#8 0x12#8 0x34#8 0x56#8) := by decide

/-- A word of 32 bits is a six-byte frame whose bytes 0 and 1 are 0. -/
theorem test_decode_word_of_32_bits : decodeTableWord 32 0x80000000 =
    some (.unrecognizedTagB2Bit7 6 0#8 0#8 0#7 0#8 0#8 0#8) := by decide

/-- The rows stand in ascending priority (30_encoding.md R51). -/
theorem test_rows_ascend : (classRows.map ClassRow.priority).Pairwise (· ≤ ·) := by decide

/-! ### One step each, on a machine in which one request is due -/

/-- A machine whose oldest request is this frame, due in the coming cycle. -/
def due (frame : List Byte) : State :=
  { State.resetWith ⟨0, 0, false, 0, 0⟩ with pending := [⟨Request.ofFrame frame, 1⟩] }

/-- The response presented by one step, if it gives a next state. -/
def answerOf (frame : List Byte) : Option Response :=
  match step (due frame) with
  | .next t => t.out
  | .fault _ => none
  | .refused _ => none

/-- V2. -/
theorem test_step_short : answerOf [0xB2#8, 0x82#8, 0x43#8, 0x13#8, 0x17#8] = some ⟨0#64, 0#2, 1#2, 0#13, 0#8, 0#1⟩ := by
  decide
/-- V7. -/
theorem test_step_tagB2Bit7 : answerOf [0xB2#8, 0x80#8, 0xC2#8, 0#8, 0#8, 0#8] = some ⟨0#64, 0#2, 2#2, 0#13, 0#8, 0#1⟩ := by
  decide
/-- V5: an all-zero frame has cause BADTAG, although its header is bad too. -/
theorem test_step_tagB2Bit6 : answerOf [0#8, 0#8, 0#8, 0#8, 0#8, 0#8] = some ⟨0#64, 0#2, 2#2, 0#13, 0#8, 0#1⟩ := by
  decide
/-- V9. -/
theorem test_step_tagB2Bit5 : answerOf [0xB2#8, 0x80#8, 0x62#8, 0#8, 0#8, 0#8] = some ⟨0#64, 0#2, 2#2, 0#13, 0#8, 0#1⟩ := by
  decide
/-- V8. -/
theorem test_step_tagB2Bit1 : answerOf [0xB2#8, 0x80#8, 0x40#8, 0#8, 0#8, 0#8] = some ⟨0#64, 0#2, 2#2, 0#13, 0#8, 0#1⟩ := by
  decide
/-- V12: a bad header is reported although the error pattern matches. -/
theorem test_step_hdrB0Bit7 : answerOf [0#8, 0x80#8, 0x5A#8, 0#8, 0#8, 5#8] = some ⟨0#64, 0#2, 3#2, 0#13, 0#8, 0#1⟩ := by
  decide
/-- From R65: b0 = 0x92 fails bit 5, b0 = 0xA2 bit 4. -/
theorem test_step_hdrB0Bits54 :
    answerOf [0x92#8, 0x80#8, 0x42#8, 1#8, 0#8, 0#8] = some ⟨0#64, 0#2, 3#2, 0#13, 0#8, 0#1⟩ ∧
    answerOf [0xA2#8, 0x80#8, 0x42#8, 1#8, 0#8, 0#8] = some ⟨0#64, 0#2, 3#2, 0#13, 0#8, 0#1⟩ := by decide
/-- V10. -/
theorem test_step_hdrB0Bit1 : answerOf [0xB0#8, 0x80#8, 0x42#8, 1#8, 0#8, 0#8] = some ⟨0#64, 0#2, 3#2, 0#13, 0#8, 0#1⟩ := by
  decide
/-- V11. -/
theorem test_step_hdrB1Bit7 : answerOf [0xB2#8, 0x7F#8, 0x42#8, 1#8, 0#8, 0#8] = some ⟨0#64, 0#2, 3#2, 0#13, 0#8, 0#1⟩ := by
  decide
/-- V17. -/
theorem test_step_error_max : answerOf [0xB2#8, 0x80#8, 0x5A#8, 0#8, 0xFF#8, 0xFF#8] =
    some ⟨0xC0BFFF0000000000#64, 2#2, 0#2, 8191#13, 0#8, 0#1⟩ := by decide +kernel
/-- V14: +0.0, not -0.0. -/
theorem test_step_error_zero : answerOf [0xB2#8, 0x80#8, 0x5A#8, 0#8, 0#8, 0#8] =
    some ⟨0#64, 2#2, 0#2, 0#13, 0#8, 0#1⟩ := by decide +kernel
/-- V24: exactly at the ceiling, not clamped. -/
theorem test_step_readingA_ceiling : answerOf [0xB2#8, 0x80#8, 0x42#8, 0x64#8, 0x0B#8, 0x7D#8] =
    some ⟨0x4034547AE147AE14#64, 1#2, 0#2, 1533#13, 100#8, 0#1⟩ := by decide +kernel
/-- V25: just over the ceiling, clamped. -/
theorem test_step_readingA_clamped : answerOf [0xB2#8, 0x80#8, 0x42#8, 0x31#8, 0x1C#8, 0x41#8] =
    some ⟨0x4034547AE147AE14#64, 1#2, 0#2, 3649#13, 49#8, 1#1⟩ := by decide +kernel
/-- V28. -/
theorem test_step_readingB : answerOf [0xB2#8, 0x80#8, 0x46#8, 1#8, 0x3F#8, 0x7F#8] =
    some ⟨0x3FEBCFAACD9E83E4#64, 1#2, 0#2, 8191#13, 1#8, 0#1⟩ := by decide +kernel
/-- V27. -/
theorem test_step_readingB_afHigh : answerOf [0xB2#8, 0x80#8, 0x47#8, 0#8, 0#8, 0#8] =
    some ⟨0x401999999999999A#64, 1#2, 0#2, 0#13, 128#8, 0#1⟩ := by decide +kernel
/-- V30. -/
theorem test_step_overrun4A : answerOf [0xB2#8, 0x80#8, 0x4A#8, 0#8, 0#8, 0#8] =
    some ⟨0x4034547AE147AE14#64, 3#2, 0#2, 0#13, 0#8, 0#1⟩ := by decide
/-- V32. -/
theorem test_step_overrun52 : answerOf [0xB2#8, 0x82#8, 0x57#8, 0x13#8, 0x17#8, 0x2F#8] =
    some ⟨0x4034547AE147AE14#64, 3#2, 0#2, 0#13, 0#8, 0#1⟩ := by decide
/-- V31. -/
theorem test_step_overrun5E : answerOf [0xB2#8, 0x80#8, 0x5F#8, 0x12#8, 0x34#8, 0x56#8] =
    some ⟨0x4034547AE147AE14#64, 3#2, 0#2, 0#13, 0#8, 0#1⟩ := by decide

/-! ### The primitives -/

/-- 95_test_vectors.md 2.1. -/
theorem test_bitMatcher :
    matchOnes 0x40#8 66#8 = false ∧ matchOnes 0xFF#8 178#8 = true ∧ matchOnes 0x7F#8 128#8 = false ∧
    matchZeroes 0x4A#8 188#8 = false ∧ matchZeroes 0x5B#8 164#8 = true ∧ matchZeroes 0x62#8 160#8 = false := by
  decide
/-- 95_test_vectors.md 2.2: both OR overlaps, and ignored b4 bits. -/
theorem test_fields :
    airFactor 0x43#8 0x80#8 = 128#8 ∧ lambdaField 0x01#8 0x80#8 = 128#13 ∧ lambdaField 0xC0#8 0x00#8 = 0#13 ∧
    product 0#13 127#8 = 63500 ∧ product 8191#13 128#8 = 1112448 := by decide
/-- 00_scope.md R6: MAX_AFR is the binary64 nearest 20.33; 44_result.md R81's 14.7. -/
theorem test_maxAfr_nearest : ofRatio false 2033 100 = Config.maxAfr ∧ afrQuotient 147000 = 0x402D666666666666#64 := by
  decide +kernel

/-! ### One cycle of the ports -/

/-- A machine with this latency and no `in_ready`, whose environment drives these cycles. -/
def driven (latency : Nat) (stream : List InPorts) : State :=
  { State.resetWith ⟨0, latency, false, 0, 0⟩ with stream := stream }

/-- V15's request on the ports. -/
def reqError : InPorts := InPorts.present ⟨0, 0, false, 0, 0⟩ [0xB2#8, 0x80#8, 0x5A#8, 0#8, 0#8, 1#8]

/-- An accepted request waits out the latency: in its own cycle nothing is given. -/
theorem test_cycle_accepts : ∃ t, step (driven 2 [reqError]) = .next t ∧ t.out = none ∧
    t.pending = [⟨Request.ofFrame [0xB2#8, 0x80#8, 0x5A#8, 0#8, 0#8, 1#8], 2⟩] := ⟨_, rfl, rfl, by decide⟩
/-- With latency 0 it is answered in the cycle it is accepted. -/
theorem test_cycle_latency_zero : ∃ t, step (driven 0 [reqError]) = .next t ∧ t.pending = [] ∧
    t.out = some (Tagged.error 1#13).project := ⟨_, rfl, rfl, rfl⟩
/-- Reset discards what is in flight and accepts nothing. -/
theorem test_cycle_reset : ∃ t, step { due [] with stream := [{ reqError with reset := true }] } = .next t ∧
    t.pending = [] ∧ t.out = none := ⟨_, rfl, rfl, rfl⟩
/-- A due request with no byte at position 2 stops the machine there. -/
theorem test_cycle_absent_byte :
    step { due [] with pending := [⟨⟨6, [(0, 0#8), (1, 0#8)]⟩, 1⟩] } = .fault (.readOutsideFrame 2) := rfl
/-- A length beyond LEN_W saturates (10_state.md R20). -/
theorem test_present_saturates :
    (InPorts.present ⟨0, 0, false, 0, 0⟩ (List.replicate 9 0#8)).inLen = 7 := by decide

/-! ### Witnesses: for each obligation with hypotheses, values that meet them together -/

theorem witness_BitMatcherTestsEachMaskedBit : matchOnes 0x5A#8 0#8 = true ∧ matchZeroes 0x5A#8 0#8 = true := by decide
theorem witness_MaskPairIsOneMaskAndMatch : (0xF0#8 : Byte) &&& 0x0F#8 = 0#8 := by decide
theorem witness_AirFactorOrsByte2Bit0IntoBit7 :
    (0x80#8 : Byte).getLsbD 7 = true ∧ (0x42#8 : Byte).getLsbD 0 = false ∧ (6 : Nat) < 7 := by decide
theorem witness_LambdaIsThirteenBits :
    (0xFF#8 : Byte) &&& 0x3F#8 = 0x3F#8 &&& 0x3F#8 ∧ (1 : Nat) ≤ 1 ∧ (5 : Nat) ≤ 5 := by decide
theorem witness_IntegerConversionIsExact : (-9007199254740991 : Int).natAbs < 2 ^ 53 ∧ (0 : Int).natAbs < 2 ^ 53 := by
  decide
theorem witness_GreaterThanComparesValues :
    F64.isNaN 0x7FF8000000000000#64 = true ∧ F64.Finite 0x7FEFFFFFFFFFFFFF#64 ∧ F64.Finite 0x8000000000000000#64 := by
  refine ⟨by decide, ?_, ?_⟩ <;> (unfold F64.Finite; decide)
theorem witness_QuotientIsTheNearestBinary64 : 2216205 ≤ 2216205 ∧ F64.Finite 0x7FEFFFFFFFFFFFFF#64 ∧
    F64.sign 0x7FEFFFFFFFFFFFFF#64 = false ∧ 0x7FEFFFFFFFFFFFFF#64 ≠ divF64 (toF64 2216205) (toF64 10000) := by
  refine ⟨by decide, ?_, by decide, by decide +kernel⟩
  unfold F64.Finite; decide
theorem witness_QuotientIsMonotone : 203300 ≤ 203301 ∧ 203301 ≤ 2216205 := by decide
theorem witness_ClampThresholdInIntegers :
    203300 ≤ 203300 ∧ 203301 ≤ 203301 ∧ 203301 ≤ 2216205 ∧ 203301 ≤ 2216205 := by decide
theorem witness_ClampIsStrict : F64.Finite Config.maxAfr := by unfold F64.Finite; decide
theorem witness_ErrorFrameAnswersMinusLambda :
    lambdaField 0xC0#8 0#8 = 0#13 ∧ lambdaField 0#8 1#8 = 1#13 ∧ lambdaField 0x3F#8 0x7F#8 = 8191#13 := by decide
theorem witness_ReadingFramesAnswerClampedQuotient : airFactor (Config.okAOnes ||| 0#8) 0#8 = 0#8 := by decide
theorem witness_ValidatorReportsFirstFailure :
    ([0xB2#8, 0x82#8, 0x43#8, 0x13#8, 0x17#8] : List Byte).length < 6 ∧
    (matchOnes 0x40#8 66#8 && matchZeroes 0x40#8 160#8) = false ∧
    ((matchOnes 0x42#8 66#8 && matchZeroes 0x42#8 160#8) = true ∧
      (matchOnes 0xB2#8 178#8 && matchOnes 0x7F#8 128#8) = false) ∧
    ((matchOnes 0x5F#8 66#8 && matchZeroes 0x5F#8 160#8) = true ∧
      (matchOnes 0xB2#8 178#8 && matchOnes 0x80#8 128#8) = true) := by decide
theorem witness_DemultiplexerOrder :
    (tagOk 0x5A#8 = true ∧ hdrOk 0xB2#8 0x80#8 = true) ∧ (tagOk 0x47#8 = true ∧ hdrOk 0xFF#8 0xFF#8 = true) ∧
    (tagOk 0x5E#8 = true ∧ hdrOk 0xB2#8 0x80#8 = true) := by decide
theorem witness_ClassOfEveryByte2 : hdrOk 0xB2#8 0x80#8 = true ∧
    0x47#8 ∈ ([0x42#8, 0x43#8, 0x46#8, 0x47#8] : List Byte) ∧ 0x5B#8 ∈ ([0x5A#8, 0x5B#8] : List Byte) ∧
    0x5F#8 ∈ ([0x4A#8, 0x4B#8, 0x4E#8, 0x4F#8, 0x52#8, 0x53#8, 0x56#8, 0x57#8, 0x5E#8, 0x5F#8] : List Byte) ∧
    0x40#8 ∉ ([0x42#8, 0x43#8, 0x46#8, 0x47#8] ++ [0x5A#8, 0x5B#8] ++
      [0x4A#8, 0x4B#8, 0x4E#8, 0x4F#8, 0x52#8, 0x53#8, 0x56#8, 0x57#8, 0x5E#8, 0x5F#8] : List Byte) := by decide

/-- A short frame's request, and a six-byte one. -/
def five : Request := Request.ofFrame [0xB2#8, 0x82#8, 0x43#8, 0x13#8, 0x17#8]
def six : Request := Request.ofFrame [0xB2#8, 0x82#8, 0x43#8, 0x13#8, 0x17#8, 0x2F#8]

theorem witness_FirstMatchingRowGivesOrderedOutcome :
    five.len < 6 ∧ (six.wf ∧ 6 ≤ six.len) ∧
    (∃ row₁ ∈ classRows, ∃ row₂ ∈ classRows, row₁.priority = row₂.priority ∧ row₁.mnemonic ≠ row₂.mnemonic ∧
      row₁.selects 0#48 = true ∧ row₂.selects 0#48 = true) ∧
    (∀ row ∈ classRows, row.priority ≤ 3 → row.selects 0xB2805A000000#48 = false) := by
  refine ⟨by decide, by decide, ?_, ?_⟩
  · exact ⟨_, .tail _ (.head _), _, .tail _ (.tail _ (.tail _ (.head _))), by decide, by decide, by decide, by decide⟩
  · simp only [classRows, tagRows, hdrRows, overrunRows, List.cons_append, List.nil_append, List.forall_mem_cons]
    decide
theorem witness_OutcomesPartitionRequests : five.wf ∧ six.wf ∧ hdrOk 0xB2#8 0x80#8 = true := by decide
theorem witness_SignalsReachedByPath : five.len < 6 := by decide
theorem witness_LegacyValueForms : five.wf ∧ six.wf := by decide
theorem witness_LegacyValueCollisions : five.wf ∧ six.wf := by decide
theorem witness_UnlistedBitsHaveNoEffect :
    (([] : List Byte).length < 6 ∧ ([0#8] : List Byte).length < 6) ∧
    (tagOk 0x40#8 = false ∧ (0x40#8 : Byte) &&& 0xE2#8 = 0x5D#8 &&& 0xE2#8) ∧
    (tagOk 0x42#8 = true ∧ hdrOk 0xB0#8 0x80#8 = false ∧ (0x42#8 : Byte) &&& 0xE2#8 = 0x5F#8 &&& 0xE2#8 ∧
      (0xB0#8 : Byte) &&& 0xB2#8 = 0xFD#8 &&& 0xB2#8 ∧ (0x80#8 : Byte) &&& 0x80#8 = 0xFF#8 &&& 0x80#8) ∧
    (tagOk 0x5A#8 = true ∧ hdrOk 0xB2#8 0x80#8 = true ∧ isErr 0x5A#8 = true ∧
      (0x5A#8 : Byte) &&& 0xFE#8 = 0x5B#8 &&& 0xFE#8 ∧ (0x05#8 : Byte) &&& 0x3F#8 = 0xC5#8 &&& 0x3F#8) ∧
    (tagOk 0x42#8 = true ∧ isOk 0x42#8 = true) ∧
    (tagOk 0x4A#8 = true ∧ isErr 0x4A#8 = false ∧ isOk 0x4A#8 = false ∧
      (0x4A#8 : Byte) &&& 0xFE#8 = 0x4B#8 &&& 0xFE#8) := by decide
theorem witness_DecodeReadsFirstSixPositionsOnly :
    six.len = six.len ∧ (6 ≤ six.len → ∀ k, k < 6 →
      six.memRead k = ({ six with mem := six.mem ++ [(6, 0xFF#8)] } : Request).memRead k) ∧
    five.len < 6 ∧ exec (.unrecognizedShort 5) (due []) = .next ((due []).answerMalformed .short) := by
  refine ⟨rfl, fun _ => ?_, by decide, rfl⟩
  decide
theorem witness_DecodeAfterEncode :
    (Instr.readingB 6 ⟨0x4D#8, 0x7F#8⟩ 1#8 0xFF#8 0xC0#8 0x3F#8 0xFF#8).wellFormed = true ∧
    (Instr.unrecognizedHdrB0Bit1 7 0b111111#6 1#1 0#8 0x5F#8 0#8 0#8 0#8).wellFormed = true := by decide
theorem witness_EncodeAfterDecode : five.wf ∧ six.wf ∧ 6 ≤ six.len := by decide
theorem witness_PortsCarryTheFrame :
    6 ≤ (List.replicate 6 (0#8 : Byte)).length ∧ (List.replicate 5 (0#8 : Byte)).length ≤ 5 ∧
    ((6 : Nat) ≤ 6 ↔ 6 ≤ (InPorts.present ⟨0, 0, false, 0, 0⟩ (List.replicate 9 0#8)).inLen) := by decide

/-! Cycle statements: a machine with one request due, and one with two requests in flight. -/

/-- The due machine with a request of six bytes. -/
def dueSix : State := due [0xB2#8, 0x82#8, 0x43#8, 0x13#8, 0x17#8, 0x2F#8]

theorem witness_StepRunsDecodedInstruction : ∃ p rest i, dueSix.nextInputs.reset = false ∧
    dueSix.nextPending = p :: rest ∧ p.wait = 0 ∧ decode p.req = .ok i ∧ i.wellFormed = true :=
  ⟨⟨six, 0⟩, [], .readingA 6 ⟨0#8, 2#8⟩ 1#8 0x13#8 0#8 0x17#8 0x2F#8, rfl, rfl, rfl, by decide, by decide⟩
theorem witness_StepAnswersConvert : ∃ p rest, dueSix.nextInputs.reset = false ∧
    dueSix.nextPending = p :: rest ∧ p.wait = 0 ∧ p.req.wf := ⟨⟨six, 0⟩, [], rfl, rfl, rfl, by decide⟩
theorem witness_ResponseDependsOnRequestAlone : ∃ p₁ rest₁ p₂ rest₂ t,
    dueSix.nextInputs.reset = false ∧ dueSix.nextPending = p₁ :: rest₁ ∧ p₁.wait = 0 ∧
    ({ dueSix with cycle := 9, out := some Tagged.overrun.project } : State).nextPending = p₂ :: rest₂ ∧
    p₂.wait = 0 ∧ p₁.req.len = p₂.req.len ∧ (∀ k, k < 6 → p₁.req.memRead k = p₂.req.memRead k) ∧
    step dueSix = .next t :=
  ⟨⟨six, 0⟩, [], ⟨six, 0⟩, [], _, rfl, rfl, rfl, rfl, rfl, rfl, fun _ _ => rfl, rfl⟩
theorem witness_CycleWithNothingDueIsSilent : (driven 2 [reqError]).nextInputs.reset = false ∧
    ∀ p ∈ (driven 2 [reqError]).nextPending.head?, p.wait ≠ 0 := by decide
theorem witness_AbsentByteStopsTheStep : ∃ p rest,
    ({ due [] with pending := [⟨⟨6, [(0, 0#8), (1, 0#8)]⟩, 1⟩] } : State).nextPending = p :: rest ∧ p.wait = 0 ∧
    6 ≤ p.req.len ∧ (2 : Nat) < 6 ∧ (∀ j, j < 2 → p.req.memRead j ≠ none) ∧ p.req.memRead 2 = none :=
  ⟨⟨⟨6, [(0, 0#8), (1, 0#8)]⟩, 0⟩, [], rfl, rfl, by decide, by decide, by decide, by decide⟩
theorem witness_StepLeavesFramesAndParameters : ∃ t, step dueSix = .next t := ⟨_, rfl⟩

/-- Latency 2, two requests in flight, and these inputs to come. -/
def busy (hasReady : Bool) (stream : List InPorts) : State :=
  { State.resetWith ⟨0, 2, hasReady, 1, 0⟩ with pending := [⟨six, 1⟩, ⟨five, 2⟩], stream := stream }

/-- The invariant holds of it while the inputs keep the transport's contract. -/
theorem busy_inv {hasReady : Bool} {stream : List InPorts}
    (h : ∀ inp ∈ stream, InPorts.Wf ⟨0, 2, hasReady, 1, 0⟩ inp) : (busy hasReady stream).Inv where
  stream_wf := h
  pending_wf := by
    have : ∀ p ∈ ([⟨six, 1⟩, ⟨five, 2⟩] : List Pending), p.req.wf ∧ 1 ≤ p.wait ∧ p.wait ≤ 2 := by decide
    exact this
  pending_order := by
    have : (([⟨six, 1⟩, ⟨five, 2⟩] : List Pending).map Pending.wait).Pairwise (· < ·) := by decide
    exact this
  ready_present := by cases hasReady <;> rfl
  ready_bounded := by
    have : ∀ n ∈ some 1, n ≤ 1 := by decide
    exact this
  ports_agree := .inl ⟨rfl, rfl⟩

/-- An error request and an idle cycle keep the contract. -/
theorem requests_wf {hasReady : Bool} :
    ∀ inp ∈ [reqError, InPorts.idle], InPorts.Wf ⟨0, 2, hasReady, 1, 0⟩ inp := by
  have h : ∀ inp ∈ [reqError, InPorts.idle], inp.inLen < 2 ^ 3 ∧ (inp.inValid = true → inp.request.wf) := by decide
  exact fun inp hi => ⟨(h inp hi).1, (h inp hi).2⟩

/-- A reset cycle and then an error request keep the contract. -/
theorem resets_wf {hasReady : Bool} :
    ∀ inp ∈ [{ InPorts.idle with reset := true }, reqError], InPorts.Wf ⟨0, 2, hasReady, 1, 0⟩ inp := by
  have h : ∀ inp ∈ [{ InPorts.idle with reset := true }, reqError],
      inp.inLen < 2 ^ 3 ∧ (inp.inValid = true → inp.request.wf) := by decide
  exact fun inp hi => ⟨(h inp hi).1, (h inp hi).2⟩

theorem witness_StepKeepsInvariant :
    ∃ t, (busy false [reqError, .idle]).Inv ∧ step (busy false [reqError, .idle]) = .next t :=
  ⟨_, busy_inv requests_wf, rfl⟩
theorem witness_InvariantStatesNeverStop : (busy true [reqError, .idle]).Inv := busy_inv requests_wf
theorem witness_ResponsesInAcceptanceOrder : ∃ t, (busy false [reqError, .idle]).Inv ∧
    (busy false [reqError, .idle]).NoReset ∧ Sys2Proof.core.run 1 (busy false [reqError, .idle]) = .next t := by
  refine ⟨_, busy_inv requests_wf, ?_, run_next (n := 0) rfl⟩
  have : ∀ inp ∈ [reqError, InPorts.idle], inp.reset = false := by decide
  exact this
theorem witness_AnsweredAfterDecodeLatency : ∃ u, (busy false [reqError, .idle]).Inv ∧
    step (busy false [reqError, .idle]) = .next u ∧ (busy false [reqError, .idle]).nextInputs.inValid = true ∧
    ((busy false [reqError, .idle]).params.hasReady = true → u.inReady = some true) ∧
    ∀ inp ∈ (busy false [reqError, .idle]).stream.take 3, inp.reset = false := by
  refine ⟨_, busy_inv requests_wf, rfl, rfl, fun h => absurd h (by decide), ?_⟩
  have : ∀ inp ∈ [reqError, InPorts.idle].take 3, inp.reset = false := by decide
  exact this
/-- A handshake that holds, without and with `in_ready` (forced to 1 by its bound), and one that does not. -/
theorem witness_AcceptanceFollowsHandshake :
    (∃ t, step (busy false [reqError]) = .next t ∧ (busy false [reqError]).nextInputs.reset = false ∧
      (busy false [reqError]).nextInputs.inValid = true ∧ 0 < (busy false [reqError]).params.decodeLatency) ∧
    (∃ t, step { busy true [reqError] with readyDue := some 0 } = .next t ∧ t.inReady = some true) ∧
    (∃ t, step (busy true [.idle]) = .next t ∧ InPorts.idle.inValid = false) :=
  ⟨⟨_, rfl, rfl, rfl, by decide⟩, ⟨_, rfl, rfl⟩, ⟨_, rfl, rfl⟩⟩
theorem witness_ResetStartsNewStream : ∃ t,
    (busy false [{ InPorts.idle with reset := true }, reqError]).Inv ∧
    (busy false [{ InPorts.idle with reset := true }, reqError]).nextInputs.reset = true ∧
    step (busy false [{ InPorts.idle with reset := true }, reqError]) = .next t ∧ t.NoReset ∧
    ∃ u, Sys2Proof.core.run 1 t = .next u := by
  refine ⟨_, busy_inv resets_wf, rfl, rfl, ?_, _, run_next (n := 0) rfl⟩
  have : ∀ inp ∈ [reqError], inp.reset = false := by decide
  exact this
theorem witness_NothingBeforeResetShows :
    (busy false [{ InPorts.idle with reset := true }, reqError]).params =
      ({ busy false [{ InPorts.idle with reset := true }, reqError] with pending := [] } : State).params ∧
    (busy false [{ InPorts.idle with reset := true }, reqError]).nextInputs.reset = true := ⟨rfl, rfl⟩
theorem witness_InReadyWithinBound : ∃ t,
    (busy true [{ InPorts.idle with reset := true }, reqError]).Inv ∧
    (busy true [{ InPorts.idle with reset := true }, reqError]).params.hasReady = true ∧
    (busy true [{ InPorts.idle with reset := true }, reqError]).nextInputs.reset = true ∧
    step (busy true [{ InPorts.idle with reset := true }, reqError]) = .next t ∧ t.NoReset := by
  refine ⟨_, busy_inv resets_wf, rfl, rfl, rfl, ?_⟩
  have : ∀ inp ∈ [reqError], inp.reset = false := by decide
  exact this
theorem witness_InstancesDoNotInteract : ∃ is', Instances.stepAt 2 [(1, dueSix), (2, dueSix)] = .next is' ∧
    (1 : Nat) ≠ 2 ∧ Instances.find [(1, dueSix), (2, dueSix)] 2 = some dueSix := ⟨_, rfl, by decide, rfl⟩

end Sys2Proof.Tests
end

