-- ==== Sys2Proof/Proofs/Binary64.lean ====
section
/-! SUPPORT. The units of a binary64 as a function of its magnitude field, its order, and the integers that are
exact in binary64. -/

namespace Sys2Proof.Machine

/-! ### The magnitude field -/

/-- The units that a magnitude field stands for: an exponent field of 0 is the fraction itself, any other one adds
the leading digit and shifts (20_memory.md R35). -/
def unitsOfMag (m : Nat) : Nat :=
  if m < 2 ^ 52 then m else (2 ^ 52 + m % 2 ^ 52) * 2 ^ (m / 2 ^ 52 - 1)

/-- The exponent field is the upper part of the magnitude field. -/
theorem F64.expo_eq_mag_div (x : F64) : F64.expo x = F64.mag x / 2 ^ 52 := by
  rw [F64.mag_eq, F64.expo, BitVec.extractLsb'_toNat, BitVec.extractLsb'_toNat, Nat.shiftRight_eq_div_pow,
    Nat.shiftRight_zero]
  omega

/-- The fraction field is the lower part of the magnitude field. -/
theorem F64.frac_eq_mag_mod (x : F64) : F64.frac x = F64.mag x % 2 ^ 52 := by
  rw [F64.mag_eq, F64.frac, BitVec.extractLsb'_toNat, BitVec.extractLsb'_toNat, Nat.shiftRight_zero]
  omega

/-- The units of a pattern are those of its magnitude field. -/
theorem F64.units_eq (x : F64) : F64.units x = unitsOfMag (F64.mag x) := by
  have hexpo : F64.expo x = 0 ↔ F64.mag x < 2 ^ 52 := by
    rw [F64.expo_eq_mag_div]; exact Nat.div_eq_zero_iff_lt (by norm_num)
  simp only [F64.units, unitsOfMag, hexpo, ← F64.expo_eq_mag_div, ← F64.frac_eq_mag_mod]
  split
  next hm => rw [F64.frac_eq_mag_mod, Nat.mod_eq_of_lt hm]
  next => rfl

/-- A magnitude field made of kept digits and a dropped power stands for their product. -/
theorem unitsOfMag_of_kept {q t : Nat} (hle : q ≤ 2 ^ 53) (hge : 0 < t → 2 ^ 52 ≤ q) :
    unitsOfMag (q + t * 2 ^ 52) = q * 2 ^ t := units_of_kept hle hge

/-- Every magnitude field is made of fewer than 2^53 kept digits and a dropped power. -/
theorem exists_kept (m : Nat) : ∃ q t, m = q + t * 2 ^ 52 ∧ q < 2 ^ 53 ∧ (0 < t → 2 ^ 52 ≤ q) := by
  by_cases hm : m < 2 ^ 52
  · exact ⟨m, 0, by omega, by omega, by omega⟩
  · exact ⟨2 ^ 52 + m % 2 ^ 52, m / 2 ^ 52 - 1, by omega, by omega, by omega⟩

@[simp] theorem unitsOfMag_zero : unitsOfMag 0 = 0 := rfl

/-- The next magnitude field is one more kept digit at the same power, also where the exponent field steps up. -/
theorem unitsOfMag_strictMono : StrictMono unitsOfMag := by
  refine strictMono_nat_of_lt_succ fun m => ?_
  obtain ⟨q, t, rfl, hq, hge⟩ := exists_kept m
  have hsucc : q + t * 2 ^ 52 + 1 = (q + 1) + t * 2 ^ 52 := by omega
  rw [hsucc, unitsOfMag_of_kept hq.le hge, unitsOfMag_of_kept hq fun ht => Nat.le_succ_of_le (hge ht)]
  exact Nat.mul_lt_mul_of_pos_right q.lt_succ_self (Nat.two_pow_pos t)

/-! ### The order of values -/

/-- A finite pattern is no NaN. -/
theorem F64.Finite.isNaN_eq_false {x : F64} (hx : F64.Finite x) : F64.isNaN x = false := by
  have hne : F64.expo x ≠ 2047 := Nat.ne_of_lt hx
  simp [F64.isNaN, hne]

/-- Keys are ordered as the values are: the units rise with the magnitude field, and a set sign turns both
around. -/
theorem F64.key_lt_key_iff (x y : F64) : F64.key y < F64.key x ↔ F64.signedUnits y < F64.signedUnits x := by
  have hlt : ∀ a b, unitsOfMag a < unitsOfMag b ↔ a < b := fun _ _ => unitsOfMag_strictMono.lt_iff_lt
  have hxy := hlt (F64.mag x) (F64.mag y)
  have hyx := hlt (F64.mag y) (F64.mag x)
  have hx := hlt 0 (F64.mag x)
  have hy := hlt 0 (F64.mag y)
  rw [unitsOfMag_zero] at hx hy
  simp only [F64.key, F64.signedUnits, F64.units_eq]
  cases F64.sign x <;> cases F64.sign y <;> simp only [Bool.false_eq_true, if_true, if_false] <;> omega

/-- The ordered comparison needs two operands that are no NaN. -/
theorem gtF64_of_nan {x y : F64} (h : F64.isNaN x = true ∨ F64.isNaN y = true) : gtF64 x y = false := by
  rcases h with h | h <;> simp [gtF64, h]

/-- Without a NaN the ordered comparison is that of the keys. -/
theorem gtF64_eq_true_iff {x y : F64} (hx : F64.isNaN x = false) (hy : F64.isNaN y = false) :
    gtF64 x y = true ↔ F64.key y < F64.key x := by
  simp [gtF64, hx, hy]

/-! ### Integers in binary64 -/

/-- Zeros behind a number's binary digits lengthen it by as many digits. -/
theorem log2_mul_two_pow_lt {n a : Nat} (ha : 0 < a) (hn : n < 2 ^ a) (e : Nat) :
    Nat.log2 (n * 2 ^ e) < a + e := by
  rcases Nat.eq_zero_or_pos n with rfl | hpos
  · rw [Nat.zero_mul, Nat.log2_zero]; omega
  · rw [Nat.log2_lt (Nat.mul_pos hpos (Nat.two_pow_pos e)).ne', Nat.pow_add]
    exact Nat.mul_lt_mul_of_pos_right hn (Nat.two_pow_pos e)

/-- Zeros that end a number's binary digits leave no remainder. -/
theorem two_pow_dvd_mul_two_pow (n e : Nat) {t : Nat} (ht : t ≤ e) : 2 ^ t ∣ n * 2 ^ e :=
  (pow_dvd_pow 2 ht).mul_left n

/-- No more digits are dropped from an integer below 2^53 than the zeros that end its unit count. -/
theorem droppedDigits_le_of_lt {n : Nat} (hn : n < 2 ^ 53) : droppedDigits n 1 ≤ 1074 := by
  have hlog : Nat.log2 (n * F64.one) < 53 + 1074 := log2_mul_two_pow_lt (by norm_num) hn 1074
  rw [droppedDigits, Nat.div_one]
  omega

/-- The magnitude of an integer below 2^53 is far from infinity's. -/
theorem nearestMag_lt_of_lt {n : Nat} (hn : n < 2 ^ 53) : nearestMag n 1 < 2047 * 2 ^ 52 := by
  have hkept := (kept_bounds n 1).1
  have hdrop := droppedDigits_le_of_lt hn
  refine Nat.lt_of_le_of_lt (Nat.min_le_left _ _) ?_
  omega

/-- The units of an integer below 2^53: what rounding drops is zeros. -/
theorem units_ofRatio_of_lt {neg : Bool} {n : Nat} (hn : n < 2 ^ 53) :
    F64.units (ofRatio neg n 1) = n * F64.one := by
  rw [units_ofRatio (nearestMag_lt_of_lt hn), Nat.one_mul]
  obtain ⟨q, hq⟩ : 2 ^ droppedDigits n 1 ∣ n * F64.one :=
    two_pow_dvd_mul_two_pow n 1074 (droppedDigits_le_of_lt hn)
  rw [hq, Nat.mul_comm _ q, divNearest_exact (Nat.two_pow_pos _)]

/-- A ratio whose magnitude field is below infinity's is finite. -/
theorem finite_ofRatio {neg : Bool} {n d : Nat} (hf : nearestMag n d < 2047 * 2 ^ 52) :
    F64.Finite (ofRatio neg n d) := by
  rw [F64.Finite, ofRatio, F64.expo_pack (Nat.lt_trans hf (by norm_num))]
  exact Nat.div_lt_of_lt_mul (by omega)

/-- The sign of a converted integer is the integer's own. -/
theorem sign_toF64 (k : Int) : F64.sign (toF64 k) = decide (k < 0) := sign_ofRatio _ _ _

theorem finite_toF64 {k : Int} (hk : k.natAbs < 2 ^ 53) : F64.Finite (toF64 k) :=
  finite_ofRatio (nearestMag_lt_of_lt hk)

/-- The conversion is exact: no digit of an integer below 2^53 is lost. -/
theorem signedUnits_toF64 {k : Int} (hk : k.natAbs < 2 ^ 53) :
    F64.signedUnits (toF64 k) = k * F64.one := by
  have hunits : F64.units (toF64 k) = k.natAbs * F64.one := units_ofRatio_of_lt hk
  rw [F64.signedUnits, sign_toF64, hunits, Nat.cast_mul]
  by_cases hneg : k < 0
  · rw [if_pos (decide_eq_true hneg), ← neg_mul, Int.ofNat_natAbs_of_nonpos hneg.le, neg_neg]
  · rw [if_neg (by simpa using hneg), Int.natAbs_of_nonneg (not_lt.mp hneg)]

/-- The magnitude field of zero is zero. -/
@[simp] theorem nearestMag_zero (d : Nat) : nearestMag 0 d = 0 := by
  simp [nearestMag, droppedDigits, divNearest]

/-- The integer 0 converts to +0.0 (92_eei_decisions.md D10). -/
@[simp] theorem toF64_zero : toF64 0 = 0#64 := by
  simp [toF64, ofRatio, F64.pack]

/-! ### The statements -/

/-- Settles O6: the digits that rounding drops from an integer below 2^53 are the zeros of its unit count. -/
theorem integerConversionIsExact : Obligations.IntegerConversionIsExact := by
  intro k hk
  refine ⟨finite_toF64 hk, signedUnits_toF64 hk, sign_toF64 k, ?_⟩
  rintro rfl
  exact toF64_zero

/-- Settles O7: the units rise strictly with the magnitude field, so the keys that `gtF64` compares stand in the
order of the values. -/
theorem greaterThanComparesValues : Obligations.GreaterThanComparesValues := by
  intro x y
  refine ⟨gtF64_of_nan, fun hx hy => ?_⟩
  exact (gtF64_eq_true_iff hx.isNaN_eq_false hy.isNaN_eq_false).trans (F64.key_lt_key_iff x y)

end Sys2Proof.Machine
end

