-- ==== Sys2Proof/Proofs/AbsentByte.lean ====
section
/-! SUPPORT. A request that lacks a byte the decode reads: which error the decode gives, and the step. -/

namespace Sys2Proof.Machine

open Sys2Proof

/-- The first position of a request without a value is `k`. -/
structure Request.FirstAbsent (r : Request) (k : Nat) : Prop where
  present : ∀ j, j < k → r.memRead j ≠ none
  absent : r.memRead k = none

/-- Reading on from a position not beyond the first absent one ends with that one's number. -/
theorem Request.FirstAbsent.readByte_bind {r : Request} {j k : Nat} {α : Type} (h : r.FirstAbsent k)
    {f : Byte → Except DecodeError α} (hj : j ≤ k) (hf : j < k → ∀ b, f b = .error (.byteAbsent k)) :
    (readByte r j >>= f) = .error (.byteAbsent k) := by
  rcases Nat.eq_or_lt_of_le hj with rfl | hlt
  · simp only [readByte, h.absent]; rfl
  · obtain ⟨b, hb⟩ := Option.ne_none_iff_exists'.mp (h.present j hlt)
    simp only [readByte, hb]
    exact hf hlt b

/-- The frame word is read in order, so the first absent position below 6 is the one reported. -/
theorem Request.FirstAbsent.requestWord_eq {r : Request} {k : Nat} (h : r.FirstAbsent k) (hk : k < 6) :
    requestWord r = .error (.byteAbsent k) :=
  h.readByte_bind k.zero_le fun h0 _ => h.readByte_bind h0 fun h1 _ => h.readByte_bind h1 fun h2 _ =>
    h.readByte_bind h2 fun h3 _ => h.readByte_bind h3 fun h4 _ => h.readByte_bind h4 fun h5 _ =>
      absurd h5 (Nat.not_lt.mpr (Nat.le_of_lt_succ hk))

/-- A request long enough is decoded from its frame word, and fails where that fails. -/
theorem decode_error {r : Request} {e : DecodeError} (hlen : 6 ≤ r.len) (hw : requestWord r = .error e) :
    decode r = .error e := by
  have hok : lenOk r.len = true := decide_eq_true hlen
  simp [decode, hok, hw]

/-- A due request that is no instruction stops the machine. -/
theorem step_of_decode_error {s : State} {p : Pending} {rest : List Pending} {e : DecodeError}
    (hreset : s.nextInputs.reset = false) (hnext : s.nextPending = p :: rest) (hdue : p.wait = 0)
    (he : decode p.req = .error e) : step s = .fault (Fault.ofDecode e) := by
  simp [step, hreset, hnext, hdue, he]

/-- Settles O35: the positions are read in rising order, so the decode's error names the first absent one. -/
theorem absentByteStopsTheStep : Obligations.AbsentByteStopsTheStep := by
  intro s p rest k hreset hnext hdue hlen hk hpresent habsent
  have hfirst : p.req.FirstAbsent k := ⟨hpresent, habsent⟩
  exact step_of_decode_error hreset hnext hdue (decode_error hlen (hfirst.requestWord_eq hk))

end Sys2Proof.Machine
end

namespace Sys2Proof.Machine

open Sys2Proof

/-! SUPPORT. The decoder's instruction, run, answers what the ordered operation `convert` answers, with the
signals of the same path (44_result.md R86; 10_state.md R18). -/

/-! ### The fields of a decoded instruction -/

/-- Masking byte 4 before the extractor does takes no bit of lambda (43_field_extract.md R77). -/
theorem lambdaField_masked (b4 b5 : Byte) :
    lambdaField (b4 &&& Config.lambdaHiMask) b5 = lambdaField b4 b5 := by
  rw [lambdaField, BitVec.and_assoc, BitVec.and_self, lambdaField]

/-- The bits a pattern fixes of byte 2 stand outside AF_HI_MASK, so putting them back keeps the air factor
(43_field_extract.md R76). -/
theorem airFactor_rebuilt {ones mask : Byte} (hones : ones &&& Config.afHiMask = 0#8)
    (hmask : ~~~mask &&& Config.afHiMask = Config.afHiMask) (b2 b3 : Byte) :
    airFactor (ones ||| clearBits b2 mask) b3 = airFactor b2 b3 := by
  have hbits : (ones ||| clearBits b2 mask) &&& Config.afHiMask = b2 &&& Config.afHiMask := by
    rw [BitVec.and_or_distrib_right, hones, BitVec.zero_or, clearBits, BitVec.and_assoc, hmask]
  rw [airFactor, hbits, airFactor]

/-- Bit 2 of byte 2 keeps the two OK patterns apart (42_payload_demux.md R70, R71). -/
theorem isOkB_of_isOkA : ∀ b2 : Byte, isOkA b2 = true → isOkB b2 = false := by decide

section Rows
variable (len : Nat) (b0 b1 b2 b3 b4 b5 : Byte) (s : State)

/-- ERROR_FRAME's instruction answers lambda of its bytes. -/
theorem exec_errorRow : exec (errorRow.build len (frameWord b0 b1 b2 b3 b4 b5)) s =
    .next (s.answerError (lambdaField b4 b5)) := by
  simp [errorRow, validRow, exec, execErrorFrame, lambdaField_masked]

/-- READING_A's instruction answers the two fields of its bytes. -/
theorem exec_readingARow : exec (readingARow.build len (frameWord b0 b1 b2 b3 b4 b5)) s =
    .next (s.answerReading true false (airFactor b2 b3) (lambdaField b4 b5)) := by
  have haf := airFactor_rebuilt (ones := Config.okAOnes) (mask := Config.okAOnes ||| Config.okAZeroes)
    (by decide) (by decide) b2 b3
  simp [readingARow, validRow, exec, execReadingA, lambdaField_masked, haf]

/-- READING_B's instruction answers the two fields of its bytes. -/
theorem exec_readingBRow : exec (readingBRow.build len (frameWord b0 b1 b2 b3 b4 b5)) s =
    .next (s.answerReading false true (airFactor b2 b3) (lambdaField b4 b5)) := by
  have haf := airFactor_rebuilt (ones := Config.okBOnes) (mask := Config.okBOnes ||| Config.okBZeroes)
    (by decide) (by decide) b2 b3
  simp [readingBRow, validRow, exec, execReadingB, lambdaField_masked, haf]

/-! ### From a frame word to its response -/

variable {len} {b0 b1 b2 b3 b4 b5}

/-- The response and the signals of six bytes, by the ordered checks of 41_frame_validation.md R66. -/
theorem convertLen_cons (hlen : lenOk len = true) (rest : List Byte) :
    convertLen len (b0 :: b1 :: b2 :: b3 :: b4 :: b5 :: rest) = convertBytes b0 b1 b2 b3 b4 b5 ∧
    convertSignalsLen len (b0 :: b1 :: b2 :: b3 :: b4 :: b5 :: rest) =
      if !tagOk b2 then Signals.malformed .badTag
      else if !hdrOk b0 b1 then Signals.malformed .badHdr
      else demuxSignals b2 b3 b4 b5 := by
  simp [convertLen, convertSignalsLen, hlen]

/-- A short frame's response and signals do not depend on its bytes (41_frame_validation.md R63). -/
theorem convertLen_short {n : Nat} (hlen : n < 6) (bytes : List Byte) :
    convertLen n bytes = .unrecognized .short ∧ convertSignalsLen n bytes = Signals.malformed .short := by
  have hl : lenOk n = false := decide_eq_false (Nat.not_le.mpr hlen)
  simp [convertLen, convertSignalsLen, hl]

/-- A valid frame's instruction answers as the demultiplexer does (42_payload_demux.md R74). -/
theorem exec_decodeWord_of_valid (htag : tagOk b2 = true) (hhdr : hdrOk b0 b1 = true) :
    exec (decodeWord len (frameWord b0 b1 b2 b3 b4 b5)) s =
      .next (s.answer (demuxSignals b2 b3 b4 b5) (demux b2 b3 b4 b5)) := by
  have hrow : rowOf (frameWord b0 b1 b2 b3 b4 b5) =
      if isErr b2 then errorRow else if isOkA b2 then readingARow else if isOkB b2 then readingBRow
      else (overrunRows.find? (·.selects (frameWord b0 b1 b2 b3 b4 b5))).getD lastOverrunRow := by
    simp [rowOf, htag, hhdr]
  rw [decodeWord, hrow]
  cases herr : isErr b2 with
  | true =>
    simp only [demux, demuxSignals, herr, if_true]
    exact exec_errorRow ..
  | false =>
    cases hokA : isOkA b2 with
    | true =>
      simp only [demux, demuxSignals, isOk, herr, hokA, isOkB_of_isOkA b2 hokA]
      exact exec_readingARow ..
    | false =>
      cases hokB : isOkB b2 with
      | true =>
        simp only [demux, demuxSignals, isOk, herr, hokA, hokB]
        exact exec_readingBRow ..
      | false =>
        simp only [demux, demuxSignals, isOk, herr, hokA, hokB]
        exact overrunRows_answer _ (find_getD_mem _) ..

/-- The instruction of a frame word answers what `convert` answers its bytes. -/
theorem exec_decodeWord (hlen : lenOk len = true) (rest : List Byte) :
    exec (decodeWord len (frameWord b0 b1 b2 b3 b4 b5)) s =
      .next (s.answer (convertSignalsLen len (b0 :: b1 :: b2 :: b3 :: b4 :: b5 :: rest))
        (convertLen len (b0 :: b1 :: b2 :: b3 :: b4 :: b5 :: rest))) := by
  rw [(convertLen_cons hlen rest).1, (convertLen_cons hlen rest).2, convertBytes]
  cases htag : tagOk b2 with
  | false =>
    simp only [decodeWord, rowOf, byteAt_frameWord, htag]
    exact tagRows_answer _ (find_getD_mem _) ..
  | true =>
    cases hhdr : hdrOk b0 b1 with
    | false =>
      simp only [decodeWord, rowOf, byteAt_frameWord, htag, hhdr]
      exact hdrRows_answer _ (find_getD_mem _) ..
    | true => exact exec_decodeWord_of_valid s htag hhdr

end Rows

/-! ### From a request to its response -/

/-- A request of six bytes or more that keeps the contract presents six of them, and they make its frame word. -/
theorem Request.six_bytes {r : Request} (h : r.wf) (hlen : 6 ≤ r.len) : ∃ b0 b1 b2 b3 b4 b5,
    r.bytes = [b0, b1, b2, b3, b4, b5] ∧ requestWord r = .ok (frameWord b0 b1 b2 b3 b4 b5) := by
  have hcount : r.bytes.length = 6 := by
    rw [Request.bytes, List.length_map, Request.length_of_wf h, Nat.min_eq_right hlen]
  match hb : r.bytes, hcount with
  | [b0, b1, b2, b3, b4, b5], _ =>
    have hread (k : Nat) : r.memRead k = [b0, b1, b2, b3, b4, b5][k]? := by
      rw [Request.memRead_of_wf h, ← hb, Request.bytes]
    refine ⟨b0, b1, b2, b3, b4, b5, rfl, ?_⟩
    simp [requestWord, readByte, hread]
    rfl

/-- A request that keeps the contract is an instruction, and that answers, in every state, what `convert` answers
the request's length and bytes. -/
theorem Request.decode_answers {r : Request} (h : r.wf) : ∃ i, decode r = .ok i ∧
    ∀ s, exec i s = .next (s.answer (convertSignalsLen r.len r.bytes) (convertLen r.len r.bytes)) := by
  by_cases hlen : r.len < 6
  · obtain ⟨hresp, hsig⟩ := convertLen_short hlen r.bytes
    refine ⟨_, decode_short hlen, fun s => ?_⟩
    rw [hresp, hsig]
    rfl
  · have hok : lenOk r.len = true := decide_eq_true (Nat.not_lt.mp hlen)
    obtain ⟨b0, b1, b2, b3, b4, b5, hbytes, hword⟩ := Request.six_bytes h (Nat.not_lt.mp hlen)
    refine ⟨decodeWord r.len (frameWord b0 b1 b2 b3 b4 b5), by simp [decode, hok, hword], fun s => ?_⟩
    rw [hbytes]
    exact exec_decodeWord s hok []

/-- The response and the signals of a request are those its instruction answers. -/
theorem responseOf_of_exec {r : Request} {i : Instr} {sig : Signals} {t : Tagged} (hi : decode r = .ok i)
    (hexec : ∀ s, exec i s = .next (s.answer sig t)) :
    responseOf r = some t.project ∧ signalsOf r = some sig := by
  simp [responseOf, signalsOf, answeredState, hi, hexec]

/-- The response of a request that keeps the contract is what its length and bytes answer (R86). -/
theorem Request.responseOf_of_wf {r : Request} (h : r.wf) :
    responseOf r = some r.answer ∧ signalsOf r = some (convertSignalsLen r.len r.bytes) := by
  obtain ⟨i, hi, hexec⟩ := Request.decode_answers h
  exact responseOf_of_exec hi hexec

/-- Every short request, whatever bytes it lists, is malformed with cause SHORT. -/
theorem responseOf_short {r : Request} (hlen : r.len < 6) :
    responseOf r = some (Tagged.unrecognized .short).project ∧ signalsOf r = some (Signals.malformed .short) :=
  responseOf_of_exec (decode_short hlen) fun _ => rfl

end Sys2Proof.Machine

namespace Sys2Proof.Machine

open Sys2Proof

/-! SUPPORT. What one clock cycle gives in each of its three kinds: reset taken, nothing due, the oldest request
answered (10_state.md R28; 70_reset_and_hazards.md R106, R114). -/

/-- Is no request due in the coming cycle? The oldest one in flight, if any, still waits. -/
def State.NothingDue (s : State) : Prop := ∀ p ∈ s.nextPending.head?, p.wait ≠ 0

/-- The coming cycle in which this request is answered and these stay in flight. -/
def State.answerDue (s : State) (p : Pending) (rest : List Pending) : State :=
  State.answer (convertSignalsLen p.req.len p.req.bytes) (convertLen p.req.len p.req.bytes)
    { s.openCycle with pending := rest }

section AnswerDue
variable (s : State) (p : Pending) (rest : List Pending)

@[simp] theorem State.answerDue_params : (s.answerDue p rest).params = s.params := rfl
@[simp] theorem State.answerDue_stream : (s.answerDue p rest).stream = s.stream.tail := rfl
@[simp] theorem State.answerDue_pending : (s.answerDue p rest).pending = rest := rfl
@[simp] theorem State.answerDue_out : (s.answerDue p rest).out = some p.req.answer := rfl
@[simp] theorem State.answerDue_sig :
    (s.answerDue p rest).sig = convertSignalsLen p.req.len p.req.bytes := rfl
@[simp] theorem State.answerDue_inReady : (s.answerDue p rest).inReady = s.readyPort := rfl
@[simp] theorem State.answerDue_readyDue : (s.answerDue p rest).readyDue = s.nextReadyDue := rfl

end AnswerDue

theorem step_of_reset {s : State} (h : s.nextInputs.reset = true) : step s = .next s.takeReset := by
  simp [step, h]

theorem step_of_nothingDue {s : State} (hreset : s.nextInputs.reset = false) (hdue : s.NothingDue) :
    step s = .next s.openCycle := by
  cases hp : s.nextPending with
  | nil => simp [step, hreset, hp]
  | cons p rest =>
    have hwait : p.wait ≠ 0 := hdue p (by simp [hp])
    simp [step, hreset, hp, hwait]

theorem step_of_decode {s : State} {p : Pending} {rest : List Pending} {i : Instr}
    (hreset : s.nextInputs.reset = false) (hnext : s.nextPending = p :: rest) (hwait : p.wait = 0)
    (hi : decode p.req = .ok i) : step s = exec i { s.openCycle with pending := rest } := by
  simp [step, hreset, hnext, hwait, hi]

/-- A due request that keeps the transport's contract is answered with the decode of its snapshot. -/
theorem step_of_due {s : State} {p : Pending} {rest : List Pending} (hreset : s.nextInputs.reset = false)
    (hnext : s.nextPending = p :: rest) (hwait : p.wait = 0) (hwf : p.req.wf) :
    step s = .next (s.answerDue p rest) := by
  obtain ⟨i, hi, hexec⟩ := Request.decode_answers hwf
  rw [step_of_decode hreset hnext hwait hi, hexec, State.answerDue]

/-- In every cycle reset is asserted, or no request is due, or the oldest one is. -/
theorem State.cycle_kinds (s : State) : s.nextInputs.reset = true ∨
    (s.nextInputs.reset = false ∧ s.NothingDue) ∨
    ∃ p rest, s.nextInputs.reset = false ∧ s.nextPending = p :: rest ∧ p.wait = 0 := by
  cases hreset : s.nextInputs.reset with
  | true => exact .inl rfl
  | false =>
    refine .inr ?_
    cases hnext : s.nextPending with
    | nil => exact .inl ⟨rfl, by simp [State.NothingDue, hnext]⟩
    | cons p rest =>
      by_cases hwait : p.wait = 0
      · exact .inr ⟨p, rest, rfl, rfl, hwait⟩
      · exact .inl ⟨rfl, by simp [State.NothingDue, hnext, hwait]⟩

/-- What every cycle without reset leaves, whether or not it answers a request: the fields of the opened cycle but
for the ports and signals of the response, and, of the FIFO one cycle on, all or all but a due oldest entry. -/
structure State.OpensTo (s t : State) : Prop where
  params : t.params = s.params
  stream : t.stream = s.stream.tail
  inReady : t.inReady = s.readyPort
  readyDue : t.readyDue = s.nextReadyDue
  pending : t.pending = s.nextPending ∨ ∃ p, p.wait = 0 ∧ s.nextPending = p :: t.pending

theorem State.opensTo_of_step {s t : State} (hreset : s.nextInputs.reset = false) (h : step s = .next t) :
    s.OpensTo t := by
  rcases s.cycle_kinds with hr | ⟨-, hdue⟩ | ⟨p, rest, -, hnext, hwait⟩
  · rw [hreset] at hr; cases hr
  · rw [step_of_nothingDue hreset hdue] at h
    cases h
    exact ⟨rfl, rfl, rfl, rfl, .inl rfl⟩
  · cases hd : decode p.req with
    | error e => rw [step_of_decode_error hreset hnext hwait hd] at h; cases h
    | ok i =>
      rw [step_of_decode hreset hnext hwait hd] at h
      obtain ⟨hparams, hstream, hpending, hready, hreadyDue, -⟩ := exec_frame h
      exact ⟨hparams, hstream, hready, hreadyDue, .inr ⟨p, hwait, hpending ▸ hnext⟩⟩

/-- Settles O31: the step runs what the decoder gives, in the cycle just opened. -/
theorem stepRunsDecodedInstruction : Obligations.StepRunsDecodedInstruction := by
  intro s p rest i hreset hnext hwait hi _
  exact step_of_decode hreset hnext hwait hi

/-- Settles O34: with nothing due the step is the cycle just opened. -/
theorem cycleWithNothingDueIsSilent : Obligations.CycleWithNothingDueIsSilent := by
  intro s hreset hdue
  exact ⟨s.openCycle, step_of_nothingDue hreset hdue, rfl, rfl, rfl, rfl⟩

/-! ### The handshake -/

/-- What is accepted where the transport presents a request, by the `in_ready` the cycle shows (10_state.md R19). -/
theorem State.accepted_of_handshake {s : State} (hreset : s.nextInputs.reset = false)
    (hvalid : s.nextInputs.inValid = true) (hready : s.params.hasReady = true → s.readyPort = some true) :
    s.accepted = some s.nextInputs.request := by
  cases hhas : s.params.hasReady with
  | false => simp [State.accepted, hreset, hvalid, hhas]
  | true =>
    have hvalue : s.readyValue = true := by simpa [State.readyPort, hhas] using hready hhas
    simp [State.accepted, hreset, hvalid, hvalue]

/-- Nothing is accepted without the handshake: an accepted request shows all three of its parts. -/
theorem State.handshake_of_accepted {s : State} {r : Request} (h : s.accepted = some r) :
    s.nextInputs.reset = false ∧ s.nextInputs.inValid = true ∧
      (s.params.hasReady = true → s.readyPort = some true) := by
  obtain ⟨hreset, hvalid, -⟩ := State.accepted_eq h
  refine ⟨hreset, hvalid, fun hhas => ?_⟩
  have hvalue : s.readyValue = true := by
    simp only [State.accepted, hreset, hvalid, hhas] at h
    by_contra hfalse
    simp [hfalse] at h
  simp [State.readyPort, hhas, hvalue]

@[simp] theorem State.readyPort_isSome (s : State) : s.readyPort.isSome = s.params.hasReady := by
  cases h : s.params.hasReady <;> simp [State.readyPort, h]

/-- What a cycle accepts is the newest entry of the FIFO, with the whole latency to wait (R114). -/
theorem State.nextPending_of_accepted {s : State} {r : Request} (h : s.accepted = some r) :
    s.nextPending = s.pending.map (fun p => { p with wait := p.wait - 1 }) ++ [⟨r, s.params.decodeLatency⟩] := by
  simp [State.nextPending, h]

/-- With a latency above 0, the cycle that accepts a request does not answer it. -/
theorem step_keeps_accepted {s t : State} {r : Request} (h : step s = .next t) (hr : s.accepted = some r)
    (hlat : 0 < s.params.decodeLatency) : t.pending.getLast? = some ⟨r, s.params.decodeLatency⟩ := by
  have hlast : s.nextPending.getLast? = some ⟨r, s.params.decodeLatency⟩ := by
    rw [State.nextPending_of_accepted hr, List.getLast?_concat]
  rcases (State.opensTo_of_step (State.accepted_eq hr).1 h).pending with hsame | ⟨p, hwait, hcons⟩
  · rw [hsame, hlast]
  · rw [hcons, List.getLast?_cons] at hlast
    cases hrest : t.pending.getLast? with
    | some q => simpa [hrest] using hlast
    | none =>
      have hp : p = ⟨r, s.params.decodeLatency⟩ := by simpa [hrest] using hlast
      rw [hp] at hwait
      exact absurd hwait hlat.ne'

/-- Settles O47: `accepted` reads the value that the opened cycle drives on `in_ready`. -/
theorem acceptanceFollowsHandshake : Obligations.AcceptanceFollowsHandshake := by
  intro s t h
  cases hreset : s.nextInputs.reset with
  | true =>
    rw [step_of_reset hreset] at h
    cases h
    refine ⟨fun hs => ?_, fun _ => State.accepted_reset hreset, ?_, fun hs => ?_⟩
    · cases hs.1
    · cases hhas : s.params.hasReady <;> simp [hhas]
    · cases hs.1
  | false =>
    have hready : t.inReady = s.readyPort := (State.opensTo_of_step hreset h).inReady
    rw [hready]
    refine ⟨fun ⟨_, hvalid, hport⟩ => State.accepted_of_handshake hreset hvalid hport, fun hno => ?_,
      s.readyPort_isSome, fun ⟨_, hvalid, hport⟩ hlat =>
        step_keeps_accepted h (State.accepted_of_handshake hreset hvalid hport) hlat⟩
    refine Option.eq_none_iff_forall_ne_some.mpr fun r hr => hno ?_
    obtain ⟨-, hvalid, hport⟩ := State.handshake_of_accepted hr
    exact ⟨rfl, hvalid, hport⟩

end Sys2Proof.Machine

namespace Sys2Proof.Machine

open Sys2Proof

/-! SUPPORT. The invariant: what a cycle does to the FIFO, what each kind of cycle keeps, and what follows for the
responses of a run (10_state.md R28) and for `in_ready` (R29). -/

/-! ### The coming inputs -/

/-- Beyond the inputs to come every cycle is idle, so the coming cycle keeps the contract as the list does. -/
theorem State.Inv.request_wf {s : State} (h : s.Inv) (hvalid : s.nextInputs.inValid = true) :
    s.nextInputs.request.wf := by
  cases hs : s.stream with
  | nil => rw [State.nextInputs_nil hs] at hvalid; cases hvalid
  | cons inp inputs =>
    rw [State.nextInputs_cons hs] at hvalid ⊢
    exact (h.stream_wf inp (by simp [hs])).bytes_present hvalid

theorem State.Inv.accepted_wf {s : State} (h : s.Inv) {r : Request} (hr : s.accepted = some r) : r.wf := by
  obtain ⟨-, hvalid, rfl⟩ := State.accepted_eq hr
  exact h.request_wf hvalid

theorem State.Inv.tail_wf {s : State} (h : s.Inv) : ∀ inp ∈ s.stream.tail, InPorts.Wf s.params inp :=
  fun inp hinp => h.stream_wf inp (List.mem_of_mem_tail hinp)

theorem State.NoReset.nextInputs {s : State} (h : s.NoReset) : s.nextInputs.reset = false := by
  cases hs : s.stream with
  | nil => rw [State.nextInputs_nil hs]; rfl
  | cons inp inputs => rw [State.nextInputs_cons hs]; exact h inp (by simp [hs])

/-! ### The FIFO one cycle on -/

/-- The waits of a FIFO in the coming cycle: those in flight, one less, then the whole latency of what joins. -/
theorem State.nextPending_wait (s : State) : s.nextPending.map Pending.wait =
    s.pending.map (fun p => p.wait - 1) ++ s.accepted.toList.map fun _ => s.params.decodeLatency := by
  simp [State.nextPending, Function.comp_def]

/-- An entry of the coming FIFO was in flight or joins now. -/
theorem State.mem_nextPending {s : State} {p : Pending} (hp : p ∈ s.nextPending) :
    (∃ q ∈ s.pending, p = { q with wait := q.wait - 1 }) ∨
      (s.accepted = some p.req ∧ p.wait = s.params.decodeLatency) := by
  rcases List.mem_append.mp hp with hold | hnew
  · obtain ⟨q, hq, rfl⟩ := List.mem_map.mp hold
    exact .inl ⟨q, hq, rfl⟩
  · obtain ⟨r, hr, rfl⟩ := List.mem_map.mp hnew
    exact .inr ⟨Option.mem_toList.mp hr, rfl⟩

theorem State.Inv.nextPending_wf {s : State} (h : s.Inv) :
    ∀ p ∈ s.nextPending, p.req.wf ∧ p.wait ≤ s.params.decodeLatency := by
  intro p hp
  rcases State.mem_nextPending hp with ⟨q, hq, rfl⟩ | ⟨hr, hwait⟩
  · obtain ⟨hwf, -, hle⟩ := h.pending_wf q hq
    exact ⟨hwf, (Nat.sub_le _ 1).trans hle⟩
  · exact ⟨h.accepted_wf hr, hwait.le⟩

/-- Each entry in flight waits at least one cycle and at most the latency, so one cycle on they still wait less than
what joins, and all of them stay apart. -/
theorem State.Inv.nextPending_order {s : State} (h : s.Inv) :
    (s.nextPending.map Pending.wait).Pairwise (· < ·) := by
  have hbounds : ∀ p ∈ s.pending, 1 ≤ p.wait ∧ p.wait ≤ s.params.decodeLatency :=
    fun p hp => (h.pending_wf p hp).2
  rw [State.nextPending_wait, List.pairwise_append]
  refine ⟨?_, ?_, ?_⟩
  · rw [List.pairwise_map]
    refine (List.pairwise_map.mp h.pending_order).imp_of_mem fun {p q} hp hq hlt => ?_
    have := hbounds p hp
    omega
  · cases s.accepted <;> simp
  · intro a ha b hb
    obtain ⟨p, hp, rfl⟩ := List.mem_map.mp ha
    obtain ⟨-, -, rfl⟩ := List.mem_map.mp hb
    have := hbounds p hp
    omega

/-- The entries behind the oldest one wait longer than it does. -/
theorem State.Inv.lt_wait_of_mem_tail {s : State} (h : s.Inv) {p : Pending} {rest : List Pending}
    (hnext : s.nextPending = p :: rest) : ∀ q ∈ rest, p.wait < q.wait := by
  have horder := h.nextPending_order
  rw [hnext, List.map_cons, List.pairwise_cons] at horder
  exact fun q hq => horder.1 q.wait (List.mem_map_of_mem hq)

/-- With nothing due, every entry of the coming FIFO has still to wait. -/
theorem State.Inv.wait_pos_of_nothingDue {s : State} (h : s.Inv) (hdue : s.NothingDue) :
    ∀ p ∈ s.nextPending, 1 ≤ p.wait := by
  cases hnext : s.nextPending with
  | nil => simp
  | cons first rest =>
    have hfirst : 1 ≤ first.wait := Nat.one_le_iff_ne_zero.mpr (hdue first (by simp [hnext]))
    refine List.forall_mem_cons.mpr ⟨hfirst, fun q hq => ?_⟩
    exact hfirst.trans (h.lt_wait_of_mem_tail hnext q hq).le

/-- The bound on withholding `in_ready` only gets smaller (10_state.md R29). -/
theorem State.Inv.nextReadyDue_le {s : State} (h : s.Inv) : ∀ n ∈ s.nextReadyDue, n ≤ s.params.readyBound := by
  intro n hn
  unfold State.nextReadyDue at hn
  split at hn
  · cases hn
  · obtain ⟨m, hm, rfl⟩ := Option.map_eq_some_iff.mp hn
    exact (Nat.sub_le _ 1).trans (h.ready_bounded m hm)

/-! ### Each kind of cycle keeps the invariant -/

theorem State.Inv.takeReset {s : State} (h : s.Inv) : s.takeReset.Inv where
  stream_wf := h.tail_wf
  pending_wf := by simp
  pending_order := by simp
  ready_present := by cases hhas : s.params.hasReady <;> simp [hhas]
  ready_bounded := by simp
  ports_agree := .inl ⟨rfl, rfl⟩

theorem State.Inv.openCycle {s : State} (h : s.Inv) (hdue : s.NothingDue) : s.openCycle.Inv where
  stream_wf := h.tail_wf
  pending_wf p hp := ⟨(h.nextPending_wf p hp).1, h.wait_pos_of_nothingDue hdue p hp, (h.nextPending_wf p hp).2⟩
  pending_order := h.nextPending_order
  ready_present := s.readyPort_isSome
  ready_bounded := h.nextReadyDue_le
  ports_agree := .inl ⟨rfl, rfl⟩

theorem State.Inv.answerDue {s : State} (h : s.Inv) {p : Pending} {rest : List Pending}
    (hnext : s.nextPending = p :: rest) : (s.answerDue p rest).Inv where
  stream_wf := h.tail_wf
  pending_wf q hq := by
    obtain ⟨hwf, hle⟩ := h.nextPending_wf q (hnext ▸ List.mem_cons_of_mem p hq)
    exact ⟨hwf, Nat.one_le_of_lt (h.lt_wait_of_mem_tail hnext q hq), hle⟩
  pending_order := by
    have horder := h.nextPending_order
    rw [hnext, List.map_cons] at horder
    exact horder.of_cons
  ready_present := s.readyPort_isSome
  ready_bounded := h.nextReadyDue_le
  ports_agree := by
    obtain ⟨hresp, hsig⟩ := convertLen_of_wf (h.nextPending_wf p (by simp [hnext])).1
    exact .inr ⟨p.req.bytes, congrArg (fun t : Tagged => some t.project) hresp, hsig⟩

/-- What one cycle does while the invariant holds: it takes reset, or opens with nothing due, or answers the oldest
request with the decode of its snapshot. -/
theorem State.Inv.step_cases {s : State} (h : s.Inv) :
    (s.nextInputs.reset = true ∧ step s = .next s.takeReset) ∨
    (s.nextInputs.reset = false ∧ s.NothingDue ∧ step s = .next s.openCycle) ∨
    ∃ p rest, s.nextInputs.reset = false ∧ s.nextPending = p :: rest ∧ step s = .next (s.answerDue p rest) := by
  rcases s.cycle_kinds with hreset | ⟨hreset, hdue⟩ | ⟨p, rest, hreset, hnext, hwait⟩
  · exact .inl ⟨hreset, step_of_reset hreset⟩
  · exact .inr (.inl ⟨hreset, hdue, step_of_nothingDue hreset hdue⟩)
  · have hwf : p.req.wf := (h.nextPending_wf p (by simp [hnext])).1
    exact .inr (.inr ⟨p, rest, hreset, hnext, step_of_due hreset hnext hwait hwf⟩)

/-- While the invariant holds a cycle answers a next state, and that meets it. -/
theorem State.Inv.exists_step {s : State} (h : s.Inv) : ∃ t, step s = .next t ∧ t.Inv := by
  rcases h.step_cases with ⟨-, hstep⟩ | ⟨-, hdue, hstep⟩ | ⟨p, rest, -, hnext, hstep⟩
  · exact ⟨_, hstep, h.takeReset⟩
  · exact ⟨_, hstep, h.openCycle hdue⟩
  · exact ⟨_, hstep, h.answerDue hnext⟩

/-- Settles O39: each of the three kinds of cycle keeps the invariant. -/
theorem stepKeepsInvariant : Obligations.StepKeepsInvariant := by
  intro s t h hstep
  obtain ⟨u, hu, hinv⟩ := h.exists_step
  rw [hu] at hstep
  cases hstep
  exact hinv

/-- Settles O37: the reset values, field by field. -/
theorem resetLeavesNothing : Obligations.ResetLeavesNothing := by
  intro p
  refine ⟨rfl, rfl, rfl, ?_, rfl⟩
  cases hhas : p.hasReady <;> simp [State.resetWith, hhas]

theorem State.resetWith_inv (p : Params) : (State.resetWith p).Inv where
  stream_wf := by simp
  pending_wf := by simp
  pending_order := by simp
  ready_present := by
    obtain ⟨-, -, -, hready, -⟩ := resetLeavesNothing p
    exact hready
  ready_bounded := by simp
  ports_agree := .inl ⟨rfl, rfl⟩

/-- Settles O38: with nothing in flight and no inputs to come, the invariant asks only about `in_ready`. -/
theorem resetMeetsInvariant : Obligations.ResetMeetsInvariant :=
  ⟨State.resetWith_inv Config.params, State.resetWith_inv⟩

/-! ### The responses of a run -/

/-- One more cycle leaves no reset to come where none was. -/
theorem State.NoReset.step {s t : State} (hno : s.NoReset) (hstep : step s = .next t) : t.NoReset := by
  intro inp hinp
  rw [(State.opensTo_of_step hno.nextInputs hstep).stream] at hinp
  exact hno inp (List.mem_of_mem_tail hinp)

theorem outputs_succ {n : Nat} {s t : State} (h : step s = .next t) :
    outputs (n + 1) s = t.out.toList ++ outputs n t := by
  simp only [outputs, h]

theorem acceptedIn_succ {n : Nat} {s t : State} (h : step s = .next t) :
    acceptedIn (n + 1) s = s.accepted.toList ++ acceptedIn n t := by
  simp only [acceptedIn, h]

/-- Ageing changes no request, and what is accepted joins at the end. -/
theorem State.nextPending_answers (s : State) : s.nextPending.map (fun p => p.req.answer) =
    s.pending.map (fun p => p.req.answer) ++ s.accepted.toList.map Request.answer := by
  simp [State.nextPending, Function.comp_def]

/-- One cycle without reset moves responses from those due to those given and adds those of what it accepts, in
order. -/
theorem step_answers_in_order {s t : State} (h : s.Inv) (hreset : s.nextInputs.reset = false)
    (hstep : step s = .next t) : t.out.toList ++ t.pending.map (fun p => p.req.answer) =
      s.pending.map (fun p => p.req.answer) ++ s.accepted.toList.map Request.answer := by
  rw [← State.nextPending_answers]
  rcases h.step_cases with ⟨hr, -⟩ | ⟨-, -, hs⟩ | ⟨p, rest, -, hnext, hs⟩
  · rw [hreset] at hr; cases hr
  · rw [hs] at hstep
    cases hstep
    rfl
  · rw [hs] at hstep
    cases hstep
    rw [hnext]
    rfl

/-- Settles O41, by induction on the number of cycles. -/
theorem responsesInAcceptanceOrder : Obligations.ResponsesInAcceptanceOrder := by
  intro n
  induction n with
  | zero =>
    intro s t _ _ hrun
    cases hrun
    simp [outputs, acceptedIn]
  | succ n ih =>
    intro s t h hno hrun
    obtain ⟨u, hstep, hu⟩ := h.exists_step
    rw [run_next hstep] at hrun
    rw [outputs_succ hstep, acceptedIn_succ hstep]
    calc (u.out.toList ++ outputs n u) ++ t.pending.map (fun p => p.req.answer)
      _ = u.out.toList ++ (u.pending.map (fun p => p.req.answer) ++ (acceptedIn n u).map Request.answer) := by
        rw [List.append_assoc, ih u t hu (hno.step hstep) hrun]
      _ = s.pending.map (fun p => p.req.answer) ++
          (s.accepted.toList ++ acceptedIn n u).map Request.answer := by
        rw [← List.append_assoc, step_answers_in_order h hno.nextInputs hstep, List.append_assoc, List.map_append]

/-! ### `in_ready` after reset -/

/-- In the last cycle of the bound `in_ready` is 1, whatever the free value (10_state.md R29). -/
theorem State.readyValue_of_bound {s : State} (hdue : s.readyDue = some 0) : s.readyValue = true := by
  simp [State.readyValue, hdue]

/-- A cycle that withholds `in_ready` uses one cycle of the bound. -/
theorem State.nextReadyDue_of_withheld {s : State} {n : Nat} (hdue : s.readyDue = some (n + 1))
    (hvalue : s.readyValue = false) : s.nextReadyDue = some n := by
  simp [State.nextReadyDue, hvalue, hdue]

/-- From `s`, `in_ready` is 1 after at most `n` cycles more, and what is presented in that cycle is accepted. -/
def ReadyWithin (n : Nat) (s : State) : Prop :=
  ∃ k u v, k ≤ n ∧ Sys2Proof.core.run k s = .next u ∧ step u = .next v ∧
    v.inReady = some true ∧ (u.nextInputs.inValid = true → u.accepted = some u.nextInputs.request)

theorem ReadyWithin.of_readyValue {s : State} (n : Nat) (h : s.Inv) (hreset : s.nextInputs.reset = false)
    (hhas : s.params.hasReady = true) (hvalue : s.readyValue = true) : ReadyWithin n s := by
  have hport : s.readyPort = some true := by simp [State.readyPort, hhas, hvalue]
  obtain ⟨t, hstep, -⟩ := h.exists_step
  have hopens := State.opensTo_of_step hreset hstep
  refine ⟨0, s, t, n.zero_le, rfl, hstep, hopens.inReady.trans hport, fun hvalid => ?_⟩
  exact State.accepted_of_handshake hreset hvalid fun _ => hport

theorem ReadyWithin.succ {n : Nat} {s t : State} (hstep : step s = .next t) (ht : ReadyWithin n t) :
    ReadyWithin (n + 1) s := by
  obtain ⟨k, u, v, hk, hrun, hready⟩ := ht
  exact ⟨k + 1, u, v, Nat.succ_le_succ hk, (run_next hstep).trans hrun, hready⟩

/-- The bound counts down while `in_ready` is withheld, and where it ends the port is 1. -/
theorem readyWithin_of_readyDue {n : Nat} : ∀ {s : State}, s.Inv → s.NoReset → s.params.hasReady = true →
    s.readyDue = some n → ReadyWithin n s := by
  induction n with
  | zero =>
    intro s h hno hhas hdue
    exact .of_readyValue 0 h hno.nextInputs hhas (State.readyValue_of_bound hdue)
  | succ n ih =>
    intro s h hno hhas hdue
    cases hvalue : s.readyValue with
    | true => exact .of_readyValue (n + 1) h hno.nextInputs hhas hvalue
    | false =>
      obtain ⟨t, hstep, ht⟩ := h.exists_step
      have hopens := State.opensTo_of_step hno.nextInputs hstep
      refine .succ hstep (ih ht (hno.step hstep) (hopens.params ▸ hhas) ?_)
      rw [hopens.readyDue, State.nextReadyDue_of_withheld hdue hvalue]

/-- Settles O45: reset puts the whole bound back. -/
theorem inReadyWithinBound : Obligations.InReadyWithinBound := by
  intro s t h hhas hreset hstep hno
  rw [step_of_reset hreset] at hstep
  cases hstep
  exact readyWithin_of_readyDue h.takeReset hno hhas rfl

end Sys2Proof.Machine

namespace Sys2Proof.Machine

open Sys2Proof

/-! SUPPORT. What the input ports carry of a frame (10_state.md R20, R21). -/

/-- The six byte ports load what a frame's first six bytes load. -/
theorem load_getElem? (frame : List Byte) :
    Memory.load 0 [frame[0]?, frame[1]?, frame[2]?, frame[3]?, frame[4]?, frame[5]?] =
      Memory.load 0 ((frame.take 6).map some) := by
  match frame with
  | [] => rfl
  | [_] => rfl
  | [_, _] => rfl
  | [_, _, _] => rfl
  | [_, _, _, _] => rfl
  | [_, _, _, _, _] => rfl
  | _ :: _ :: _ :: _ :: _ :: _ :: _ => rfl

section Present
variable (p : Params) (frame : List Byte)

@[simp] theorem InPorts.present_inLen : (InPorts.present p frame).inLen = min frame.length (2 ^ p.lenW - 1) := rfl

/-- The snapshot of a presented frame holds the bytes of the frame's request. -/
theorem InPorts.present_request_mem : (InPorts.present p frame).request.mem = (Request.ofFrame frame).mem :=
  load_getElem? frame

/-- LEN_W has three bits at least, so seven at least can be carried (00_scope.md R7). -/
theorem eight_le_two_pow_lenW : 8 ≤ 2 ^ p.lenW :=
  Nat.pow_le_pow_right (n := 2) (by decide) (Nat.le_add_right 3 p.lenWExtra)

/-- Saturation keeps what the block reads of a length: how many of the six positions it has. -/
theorem InPorts.present_min_len : min (InPorts.present p frame).inLen 6 = min frame.length 6 := by
  have hpow := eight_le_two_pow_lenW p
  rw [InPorts.present_inLen]
  omega

/-- The ports carry exactly the bytes that the saturated length asks for. -/
theorem InPorts.present_request_wf : (InPorts.present p frame).request.wf := by
  have hmin := InPorts.present_min_len p frame
  have hwf : (Request.ofFrame frame).mem.map Prod.fst = List.range (min frame.length 6) := Request.ofFrame_wf frame
  rw [Request.wf, InPorts.present_request_mem, hwf, ← hmin]
  rfl

theorem InPorts.present_wf : InPorts.Wf p (InPorts.present p frame) where
  len_fits := by
    have hpow := eight_le_two_pow_lenW p
    rw [InPorts.present_inLen]
    omega
  bytes_present _ := InPorts.present_request_wf p frame

theorem InPorts.present_memRead {k : Nat} (hk : k < 6) : (InPorts.present p frame).request.memRead k = frame[k]? := by
  have hbytes : (InPorts.present p frame).request.mem.map Prod.snd = frame.take 6 := by
    rw [InPorts.present_request_mem, Request.bytes_ofFrame]
  rw [Request.memRead_of_wf (InPorts.present_request_wf p frame), hbytes, List.getElem?_take_of_lt hk]

end Present

/-- Requests that keep the contract, with the same bytes and on the same side of the length check, answer alike. -/
theorem Request.responseOf_congr {r r' : Request} (h : r.wf) (h' : r'.wf) (hmem : r.mem = r'.mem)
    (hlen : 6 ≤ r.len ↔ 6 ≤ r'.len) : responseOf r = responseOf r' := by
  have hok : lenOk r.len = lenOk r'.len := decide_eq_decide.mpr hlen
  rw [(Request.responseOf_of_wf h).1, (Request.responseOf_of_wf h').1, Request.answer, Request.answer,
    (convertLen_congr hok r.bytes).1, Request.bytes, Request.bytes, hmem]

/-- Of a request's length, its response depends only on the length check. -/
theorem Request.responseOf_len {r : Request} (h : r.wf) {len : Nat} (hlen : 6 ≤ len ↔ 6 ≤ r.len) :
    responseOf { r with len := len } = responseOf r := by
  by_cases hshort : r.len < 6
  · have hshort' : len < 6 := Nat.lt_of_not_le fun h6 => Nat.not_le.mpr hshort (hlen.mp h6)
    rw [(responseOf_short hshort).1, (responseOf_short (r := { r with len := len }) hshort').1]
  · have hmin : min len 6 = min r.len 6 := by omega
    have hwf : ({ r with len := len } : Request).wf := by
      rw [Request.wf, h]
      exact congrArg List.range hmin.symm
    exact Request.responseOf_congr hwf h rfl hlen

/-- Settles O30: with three bits or more a saturated length stays on its side of 6, and nothing else of it is read. -/
theorem portsCarryTheFrame : Obligations.PortsCarryTheFrame := by
  intro p frame
  have hpow := eight_le_two_pow_lenW p
  have hlen := InPorts.present_inLen p frame
  have hwf := InPorts.present_request_wf p frame
  refine ⟨rfl, Nat.le_add_right 3 p.lenWExtra, fun h => ?_, fun h => ?_, InPorts.present_wf p frame,
    fun k hk => InPorts.present_memRead p frame hk, ?_, fun len h => Request.responseOf_len hwf h⟩
  · rw [hlen]; omega
  · rw [hlen]; omega
  · refine Request.responseOf_congr hwf (Request.ofFrame_wf frame) (InPorts.present_request_mem p frame) ?_
    have hmin := InPorts.present_min_len p frame
    change 6 ≤ (InPorts.present p frame).inLen ↔ 6 ≤ frame.length
    omega

end Sys2Proof.Machine

namespace Sys2Proof.Machine

open Sys2Proof

/-! SUPPORT. Rounding to nearest is monotonic, so the clamp of a quotient is a threshold on its product
(44_result.md R81 to R83); with it, the signals of every decode (10_state.md R18). -/

/-! ### Rounding is monotonic -/

theorem divNearest_mono (d : Nat) : Monotone fun n => divNearest n d := by
  intro m n hmn
  have hq : m / d ≤ n / d := Nat.div_le_div_right hmn
  rcases Nat.eq_or_lt_of_le hq with heq | hlt
  · have hr : m % d ≤ n % d := by
      have hm := Nat.div_add_mod m d
      have hn := Nat.div_add_mod n d
      rw [heq] at hm
      omega
    simp only [divNearest, heq]
    split <;> split <;> omega
  · exact ((divNearest_bounds m d).2.trans hlt).trans (divNearest_bounds n d).1

theorem droppedDigits_mono (d : Nat) : Monotone fun n => droppedDigits n d := by
  intro m n hmn
  have hquot : m * F64.one / d ≤ n * F64.one / d := Nat.div_le_div_right (Nat.mul_le_mul_right F64.one hmn)
  simp only [droppedDigits, Nat.log2_eq_log_two]
  exact Nat.sub_le_sub_right (Nat.log_mono_right hquot) 52

/-- Where a larger ratio drops more digits its exponent is higher; where it drops as many it keeps no smaller
ones. -/
theorem nearestMag_mono (d : Nat) : Monotone fun n => nearestMag n d := by
  intro m n hmn
  refine min_le_min_right _ ?_
  have hdropped : droppedDigits m d ≤ droppedDigits n d := droppedDigits_mono d hmn
  rcases Nat.eq_or_lt_of_le hdropped with heq | hlt
  · rw [heq]
    exact Nat.add_le_add_right (divNearest_mono _ (Nat.mul_le_mul_right F64.one hmn)) _
  · have hm := (kept_bounds m d).1
    have hn := (kept_bounds n d).2 (by omega)
    omega

/-! ### The comparison of rounded ratios -/

/-- A rounded ratio is finite or an infinity, so no NaN. -/
theorem isNaN_ofRatio (neg : Bool) (n d : Nat) : F64.isNaN (ofRatio neg n d) = false := by
  have hle := nearestMag_le n d
  rw [F64.isNaN, ofRatio, F64.expo_pack (Nat.lt_of_le_of_lt hle (by norm_num)), F64.frac_pack]
  simp only [Bool.and_eq_false_iff, beq_eq_false_iff_ne, bne_eq_false_iff_eq]
  omega

theorem key_ofRatio (n d : Nat) : F64.key (ofRatio false n d) = (nearestMag n d : Int) := by
  have hmag : F64.mag (ofRatio false n d) = nearestMag n d :=
    F64.mag_pack (Nat.lt_of_le_of_lt (nearestMag_le n d) (by norm_num))
  simp [F64.key, sign_ofRatio, hmag]

/-! ### The quotient of a product -/

theorem F64.one_pos : 0 < F64.one := by rw [F64.one]; positivity

/-- The block's quotient is the ratio of the two units counts, rounded once (44_result.md R81). -/
theorem afrQuotient_eq {prod : Nat} (h : prod < 2 ^ 53) :
    afrQuotient prod = ofRatio false (prod * F64.one) (Config.afrDivisor * F64.one) := by
  have hexact {n : Nat} (hn : n < 2 ^ 53) : F64.isNaN (toF64 n) = false ∧ F64.isInf (toF64 n) = false ∧
      F64.sign (toF64 n) = false ∧ F64.units (toF64 n) = n * F64.one := by
    have hfin : F64.Finite (toF64 n) := finite_toF64 (k := n) hn
    refine ⟨hfin.isNaN_eq_false, ?_, ?_, units_ofRatio_of_lt hn⟩
    · have hne : F64.expo (toF64 n) ≠ 2047 := Nat.ne_of_lt hfin
      simp [F64.isInf, hne]
    · simp [sign_toF64]
  obtain ⟨hnan, hinf, hsign, hunits⟩ := hexact h
  obtain ⟨hnan', hinf', hsign', hunits'⟩ := hexact (n := Config.afrDivisor) (by decide)
  have hne : Config.afrDivisor * F64.one ≠ 0 :=
    Nat.mul_ne_zero (by decide) F64.one_pos.ne'
  simp [afrQuotient, divF64, hnan, hinf, hsign, hunits, hnan', hinf', hsign', hunits', hne]

/-- The product fits 22 bits (43_field_extract.md R78). -/
theorem product_le (lambda : BitVec 13) (af : BitVec 8) : product lambda af ≤ 2216205 := by
  have hlambda : lambda.toNat + Config.lambdaOffset ≤ 8691 :=
    Nat.add_le_add_right (Nat.le_of_lt_succ lambda.isLt) Config.lambdaOffset
  have haf : af.toNat ≤ 255 := Nat.le_of_lt_succ af.isLt
  exact Nat.mul_le_mul hlambda haf

/-- The largest product that is not clamped gives MAX_AFR itself, and the next one more (44_result.md R83). -/
theorem nearestMag_at_threshold :
    (nearestMag (203300 * F64.one) (Config.afrDivisor * F64.one) : Int) = F64.key Config.maxAfr ∧
    F64.key Config.maxAfr < (nearestMag (203301 * F64.one) (Config.afrDivisor * F64.one) : Int) := by
  decide +kernel

/-- The clamp is a threshold on the product: rounding is monotonic, and the threshold's two sides are computed. -/
theorem clampedFlag_afrQuotient {prod : Nat} (h : prod < 2 ^ 53) :
    clampedFlag (afrQuotient prod) = decide (203300 < prod) := by
  have hmono {m n : Nat} (hmn : m ≤ n) : nearestMag (m * F64.one) (Config.afrDivisor * F64.one) ≤
      nearestMag (n * F64.one) (Config.afrDivisor * F64.one) :=
    nearestMag_mono _ (Nat.mul_le_mul_right F64.one hmn)
  obtain ⟨hat, habove⟩ := nearestMag_at_threshold
  have hflag : clampedFlag (afrQuotient prod) = true ↔ 203300 < prod := by
    rw [clampedFlag, afrQuotient_eq h, gtF64_eq_true_iff (isNaN_ofRatio ..) (by decide), key_ofRatio]
    constructor
    · intro hgt
      by_contra hle
      have := hmono (Nat.not_lt.mp hle)
      omega
    · intro hlt
      have := hmono (show 203301 ≤ prod from hlt)
      omega
  exact Bool.eq_iff_iff.mpr (hflag.trans decide_eq_true_iff.symm)

theorem clampedFlag_product (lambda : BitVec 13) (af : BitVec 8) :
    clampedFlag (afrQuotient (product lambda af)) = decide (203300 < product lambda af) :=
  clampedFlag_afrQuotient (Nat.lt_of_le_of_lt (product_le lambda af) (by decide))

/-! ### The signals of a decode -/

/-- The signals of a valid frame, by the classes of byte 2 (10_state.md R18). -/
theorem demuxSignals_eq (b2 b3 b4 b5 : Byte) :
    let ok := !isErr b2 && isOk b2
    let lambda := lambdaField b4 b5
    let af := airFactor b2 b3
    demuxSignals b2 b3 b4 b5 =
      { Signals.valid with
        isErr := some (isErr b2)
        isOkA := if !isErr b2 then some (isOkA b2) else none
        isOkB := if !isErr b2 then some (isOkB b2) else none
        isOk := if !isErr b2 then some (isOk b2) else none
        lambda := if isErr b2 || isOk b2 then some lambda else none
        af := if ok then some af else none
        prod := if ok then some (BitVec.ofNat 22 (product lambda af)) else none
        afrRaw := if ok then some (afrQuotient (product lambda af)) else none
        clamped := if ok then some (decide (203300 < product lambda af)) else none } := by
  cases herr : isErr b2 with
  | true => simp [demuxSignals, herr, Signals.error, Signals.valid, Signals.absent]
  | false =>
    cases hok : isOk b2 with
    | true =>
      have hor : (isOkA b2 || isOkB b2) = true := hok
      simp [demuxSignals, herr, hok, Signals.reading, Signals.notError, hor, clampedFlag_product]
    | false =>
      have hor : (isOkA b2 || isOkB b2) = false := hok
      simp [demuxSignals, herr, hok, Signals.notError, Signals.valid, Signals.absent, hor]

/-- Settles O21: the failing check ends the path, and past the three checks byte 2 chooses it. -/
theorem signalsReachedByPath : Obligations.SignalsReachedByPath := by
  refine ⟨fun r hlen => (responseOf_short hlen).2, fun b0 b1 b2 b3 b4 b5 rest => ?_⟩
  have hlen : lenOk (b0 :: b1 :: b2 :: b3 :: b4 :: b5 :: rest).length = true :=
    decide_eq_true (Nat.le_add_left 6 rest.length)
  have hsig : signalsOf (Request.ofFrame (b0 :: b1 :: b2 :: b3 :: b4 :: b5 :: rest)) =
      some (if !tagOk b2 then Signals.malformed .badTag
        else if !hdrOk b0 b1 then Signals.malformed .badHdr
        else demuxSignals b2 b3 b4 b5) := by
    rw [(Request.responseOf_of_wf (Request.ofFrame_wf _)).2, ← (convertLen_cons hlen []).2]
    rfl
  rw [hsig]
  cases htag : tagOk b2 with
  | false => simp [Signals.malformed, Signals.absent]
  | true =>
    cases hhdr : hdrOk b0 b1 with
    | false => simp [Signals.malformed, Signals.absent]
    | true => simp [demuxSignals_eq, Signals.valid, Signals.absent, afrQuotient, Config.afrDivisor]

end Sys2Proof.Machine

namespace Sys2Proof.Machine

open Sys2Proof

/-! SUPPORT. What a decode depends on and what it leaves alone: the positions it reads (20_memory.md R31), the bits
its response depends on (R32), and the frames in flight over one cycle (R31, R41). -/

/-! ### The positions a decode reads -/

/-- The frame word takes nothing of a request but positions 0 to 5. -/
theorem requestWord_congr {r r' : Request} (h : ∀ k, k < 6 → r.memRead k = r'.memRead k) :
    requestWord r = requestWord r' := by
  have hread (k : Nat) (hk : k < 6) : readByte r k = readByte r' k := by rw [readByte, h k hk, readByte]
  simp only [requestWord, hread 0 (by decide), hread 1 (by decide), hread 2 (by decide), hread 3 (by decide),
    hread 4 (by decide), hread 5 (by decide)]

/-- Short requests of one length are one instruction, whatever bytes they list. -/
theorem decode_congr_short {r r' : Request} (hlen : r.len = r'.len) (hshort : r.len < 6) : decode r = decode r' := by
  rw [decode_short hshort, decode_short (hlen ▸ hshort), hlen]

/-- Requests of one length and one frame word are one instruction. -/
theorem decode_congr_word {r r' : Request} (hlen : r.len = r'.len) (hword : requestWord r = requestWord r') :
    decode r = decode r' := by
  rw [decode, hlen, hword, decode]

/-- Settles O25: a short request decodes by its length, any other by its length and its frame word, and an
instruction writes the output ports and signals only. -/
theorem decodeReadsFirstSixPositionsOnly : Obligations.DecodeReadsFirstSixPositionsOnly := by
  refine ⟨fun r r' hlen hread => ?_, fun r r' => decode_congr_short, fun i s t h => ?_⟩
  · rcases Nat.lt_or_ge r.len 6 with hshort | hlong
    · exact decode_congr_short hlen hshort
    · exact decode_congr_word hlen (requestWord_congr (hread hlong))
  · obtain ⟨-, -, hpending, -⟩ := exec_frame h
    exact hpending

/-! ### The bits a check reads -/

section Masks
variable {b c m n : Byte}

/-- Bytes that agree under a mask agree under every part of it. -/
theorem and_congr_of_subset (h : b &&& m = c &&& m) (hn : m &&& n = n) : b &&& n = c &&& n := by
  rw [← hn, ← BitVec.and_assoc, h, BitVec.and_assoc]

theorem matchOnes_congr (h : b &&& m = c &&& m) (hn : m &&& n = n) : matchOnes b n = matchOnes c n := by
  rw [matchOnes, and_congr_of_subset h hn, matchOnes]

theorem matchZeroes_congr (h : b &&& m = c &&& m) (hn : m &&& n = n) : matchZeroes b n = matchZeroes c n := by
  rw [matchZeroes, and_congr_of_subset h hn, matchZeroes]

end Masks

section Checks
variable {b0 b1 b2 b4 b5 c0 c1 c2 c4 c5 : Byte}

/-- The tag is bits 7, 6, 5 and 1 of byte 2 (41_frame_validation.md R64). -/
theorem tagOk_congr (h : b2 &&& 0xE2#8 = c2 &&& 0xE2#8) : tagOk b2 = tagOk c2 := by
  rw [tagOk, matchOnes_congr h (by decide), matchZeroes_congr h (by decide), tagOk]

/-- The header is bits 7, 5, 4 and 1 of byte 0 and bit 7 of byte 1 (41_frame_validation.md R65). -/
theorem hdrOk_congr (h0 : b0 &&& 0xB2#8 = c0 &&& 0xB2#8) (h1 : b1 &&& 0x80#8 = c1 &&& 0x80#8) :
    hdrOk b0 b1 = hdrOk c0 c1 := by
  rw [hdrOk, matchOnes_congr h0 (by decide), matchOnes_congr h1 (by decide), hdrOk]

/-- No pattern of the demultiplexer tests bit 0 of byte 2 (42_payload_demux.md R69). -/
theorem isErr_congr (h : b2 &&& 0xFE#8 = c2 &&& 0xFE#8) : isErr b2 = isErr c2 := by
  rw [isErr, matchOnes_congr h (by decide), matchZeroes_congr h (by decide), isErr]

/-- As for the error pattern, of both OK patterns (42_payload_demux.md R70 to R72). -/
theorem isOk_congr (h : b2 &&& 0xFE#8 = c2 &&& 0xFE#8) : isOk b2 = isOk c2 := by
  have hA : isOkA b2 = isOkA c2 := by
    rw [isOkA, matchOnes_congr h (by decide), matchZeroes_congr h (by decide), isOkA]
  have hB : isOkB b2 = isOkB c2 := by
    rw [isOkB, matchOnes_congr h (by decide), matchZeroes_congr h (by decide), isOkB]
  rw [isOk, hA, hB, isOk]

/-- Lambda is the low six bits of byte 4, and byte 5 (43_field_extract.md R77). -/
theorem lambdaField_congr (h4 : b4 &&& 0x3F#8 = c4 &&& 0x3F#8) (h5 : b5 = c5) :
    lambdaField b4 b5 = lambdaField c4 c5 := by
  have hmask : b4 &&& Config.lambdaHiMask = c4 &&& Config.lambdaHiMask := h4
  rw [lambdaField, hmask, h5, lambdaField]

end Checks

/-! ### The outcomes, one at a time -/

section Outcomes
variable {b0 b1 b2 : Byte}

theorem convertBytes_of_badTag (htag : tagOk b2 = false) (b0 b1 b3 b4 b5 : Byte) :
    convertBytes b0 b1 b2 b3 b4 b5 = .unrecognized .badTag := by
  simp [convertBytes, htag]

theorem convertBytes_of_badHdr (htag : tagOk b2 = true) (hhdr : hdrOk b0 b1 = false) (b3 b4 b5 : Byte) :
    convertBytes b0 b1 b2 b3 b4 b5 = .unrecognized .badHdr := by
  simp [convertBytes, htag, hhdr]

theorem convertBytes_of_valid (htag : tagOk b2 = true) (hhdr : hdrOk b0 b1 = true) (b3 b4 b5 : Byte) :
    convertBytes b0 b1 b2 b3 b4 b5 = demux b2 b3 b4 b5 := by
  simp [convertBytes, htag, hhdr]

theorem demux_of_isErr (herr : isErr b2 = true) (b3 b4 b5 : Byte) :
    demux b2 b3 b4 b5 = .error (lambdaField b4 b5) := by
  simp [demux, herr]

theorem demux_of_overrun (herr : isErr b2 = false) (hok : isOk b2 = false) (b3 b4 b5 : Byte) :
    demux b2 b3 b4 b5 = .overrun := by
  simp [demux, herr, hok]

end Outcomes

/-- Of bytes 4 and 5 the demultiplexer takes lambda alone (42_payload_demux.md R74). -/
theorem demux_congr_lambda {b4 b5 c4 c5 : Byte} (h : lambdaField b4 b5 = lambdaField c4 c5) (b2 b3 : Byte) :
    demux b2 b3 b4 b5 = demux b2 b3 c4 c5 := by
  rw [demux, h, demux]

/-- A frame of six bytes or more is answered by its first six bytes (44_result.md R86). -/
theorem responseOf_ofFrame_cons (b0 b1 b2 b3 b4 b5 : Byte) (rest : List Byte) :
    responseOf (Request.ofFrame (b0 :: b1 :: b2 :: b3 :: b4 :: b5 :: rest)) =
      some (convertBytes b0 b1 b2 b3 b4 b5).project := by
  have hlen : lenOk (b0 :: b1 :: b2 :: b3 :: b4 :: b5 :: rest).length = true :=
    decide_eq_true (Nat.le_add_left 6 rest.length)
  rw [(Request.responseOf_of_wf (Request.ofFrame_wf _)).1, ← (convertLen_cons hlen []).1]
  rfl

/-- Frames whose first six bytes convert alike answer alike, whatever follows these. -/
theorem responseOf_ofFrame_congr {b0 b1 b2 b3 b4 b5 c0 c1 c2 c3 c4 c5 : Byte}
    (h : convertBytes b0 b1 b2 b3 b4 b5 = convertBytes c0 c1 c2 c3 c4 c5) (f g : List Byte) :
    responseOf (Request.ofFrame (b0 :: b1 :: b2 :: b3 :: b4 :: b5 :: f)) =
      responseOf (Request.ofFrame (c0 :: c1 :: c2 :: c3 :: c4 :: c5 :: g)) := by
  rw [responseOf_ofFrame_cons, responseOf_ofFrame_cons, h]

/-- A frame that agrees with a valid one on the header's bits and on bits 7 to 1 of byte 2 is valid too, so only the
demultiplexer can tell the two apart. -/
theorem convertBytes_congr_of_valid {b0 b1 b2 b3 b4 b5 c0 c1 c2 c3 c4 c5 : Byte} (htag : tagOk b2 = true)
    (hhdr : hdrOk b0 b1 = true) (h0 : b0 &&& 0xB2#8 = c0 &&& 0xB2#8) (h1 : b1 &&& 0x80#8 = c1 &&& 0x80#8)
    (hclass : b2 &&& 0xFE#8 = c2 &&& 0xFE#8) (h : demux b2 b3 b4 b5 = demux c2 c3 c4 c5) :
    convertBytes b0 b1 b2 b3 b4 b5 = convertBytes c0 c1 c2 c3 c4 c5 := by
  have htag' : tagOk c2 = true := tagOk_congr (and_congr_of_subset hclass (by decide)) ▸ htag
  have hhdr' : hdrOk c0 c1 = true := hdrOk_congr h0 h1 ▸ hhdr
  rw [convertBytes_of_valid htag hhdr, convertBytes_of_valid htag' hhdr', h]

/-- Settles O24: two frames that agree on the bits of a check pass or fail it together, so they reach one outcome,
and its response takes no more than the fields listed for it. -/
theorem unlistedBitsHaveNoEffect : Obligations.UnlistedBitsHaveNoEffect := by
  refine ⟨fun f g hf hg => ?_, fun b0 b1 b2 b3 b4 b5 c0 c1 c2 c3 c4 c5 f g => ?_⟩
  · rw [(responseOf_short (r := Request.ofFrame f) hf).1, (responseOf_short (r := Request.ofFrame g) hg).1]
  intro same tagBits classBits hdrBits lambdaBits
  have same_of_convert (h : convertBytes b0 b1 b2 b3 b4 b5 = convertBytes c0 c1 c2 c3 c4 c5) : same :=
    responseOf_ofFrame_congr h f g
  refine ⟨fun htag htagBits => same_of_convert ?badTag,
    fun htag hhdr htagBits ⟨h0, h1⟩ => same_of_convert ?badHdr,
    fun htag hhdr herr ⟨h0, h1⟩ hclass ⟨h4, h5⟩ =>
      same_of_convert (convertBytes_congr_of_valid htag hhdr h0 h1 hclass ?error),
    fun htag hhdr _ ⟨h0, h1⟩ h2 h3 ⟨h4, h5⟩ => same_of_convert
      (convertBytes_congr_of_valid htag hhdr h0 h1 (congrArg (· &&& 0xFE#8) h2) ?reading),
    fun htag hhdr herr hok ⟨h0, h1⟩ hclass =>
      same_of_convert (convertBytes_congr_of_valid htag hhdr h0 h1 hclass ?overrun)⟩
  case badTag =>
    rw [convertBytes_of_badTag htag, convertBytes_of_badTag (tagOk_congr htagBits ▸ htag)]
  case badHdr =>
    rw [convertBytes_of_badHdr htag hhdr,
      convertBytes_of_badHdr (tagOk_congr htagBits ▸ htag) (hdrOk_congr h0 h1 ▸ hhdr)]
  case error =>
    rw [demux_of_isErr herr, demux_of_isErr (isErr_congr hclass ▸ herr), lambdaField_congr h4 h5]
  case reading =>
    rw [h2, h3, demux_congr_lambda (lambdaField_congr h4 h5)]
  case overrun =>
    rw [demux_of_overrun herr hok, demux_of_overrun (isErr_congr hclass ▸ herr) (isOk_congr hclass ▸ hok)]

/-! ### The frames in flight over one cycle -/

/-- What every cycle that answers a next state leaves, reset or not: the parameters, one cycle of inputs less, one
more on the counter, and in flight nothing but entries of the FIFO one cycle on. -/
theorem step_frame {s t : State} (h : step s = .next t) :
    t.params = s.params ∧ t.stream = s.stream.tail ∧ t.cycle = s.cycle + 1 ∧
      ∀ p ∈ t.pending, p ∈ s.nextPending := by
  rcases s.cycle_kinds with hreset | ⟨hreset, hdue⟩ | ⟨p, rest, hreset, hnext, hwait⟩
  · rw [step_of_reset hreset] at h
    cases h
    simp
  · rw [step_of_nothingDue hreset hdue] at h
    cases h
    simp
  · cases hd : decode p.req with
    | error e => rw [step_of_decode_error hreset hnext hwait hd] at h; cases h
    | ok i =>
      rw [step_of_decode hreset hnext hwait hd] at h
      obtain ⟨hparams, hstream, hpending, -, -, hcycle⟩ := exec_frame h
      refine ⟨hparams, hstream, hcycle, fun q hq => ?_⟩
      rw [hpending] at hq
      rw [hnext]
      exact List.mem_cons_of_mem p hq

/-- A request in flight after a cycle was in flight before it, one cycle longer to wait, or is the one accepted. -/
theorem step_pending_origin {s t : State} (h : step s = .next t) {p : Pending} (hp : p ∈ t.pending) :
    (∃ q ∈ s.pending, q.req = p.req ∧ p.wait = q.wait - 1) ∨
      (s.accepted = some p.req ∧ p.wait = s.params.decodeLatency) := by
  obtain ⟨-, -, -, hmem⟩ := step_frame h
  rcases State.mem_nextPending (hmem p hp) with ⟨q, hq, rfl⟩ | hnew
  · exact .inl ⟨q, hq, rfl, rfl⟩
  · exact .inr hnew

/-- Settles O36: a cycle only ages, drops and adds whole requests, and what it adds is the snapshot of its inputs. -/
theorem stepLeavesFramesAndParameters : Obligations.StepLeavesFramesAndParameters := by
  intro s t h
  obtain ⟨hparams, hstream, hcycle, -⟩ := step_frame h
  refine ⟨hparams, hstream, hcycle, fun p hp => step_pending_origin h hp, fun p hp a => ?_⟩
  rcases step_pending_origin h hp with ⟨q, hq, hreq, -⟩ | ⟨hacc, -⟩
  · exact .inl ⟨q, hq, by rw [hreq]⟩
  · obtain ⟨-, -, hsnapshot⟩ := State.accepted_eq hacc
    exact .inr (by rw [hsnapshot])

end Sys2Proof.Machine

namespace Sys2Proof.Machine

open Sys2Proof

/-! SUPPORT. The rows of the opcode table as tests of single bytes, and the decoder as the first row that matches
(30_encoding.md R46, R51). -/

/-! ### The tests of one byte -/

/-- The tests of byte 2 by bits of the tag (41_frame_validation.md R64). -/
theorem tag_tests : ∀ b : Byte,
    matchOnes b (Config.tagZeroes &&& 0x80) = b.getLsbD 7 ∧
    matchZeroes b (Config.tagZeroes &&& 0x80) = !b.getLsbD 7 ∧
    matchOnes b (Config.tagOnes &&& 0x40) = b.getLsbD 6 ∧
    matchZeroes b (Config.tagOnes &&& 0x40) = !b.getLsbD 6 ∧
    matchOnes b (Config.tagZeroes &&& 0x20) = b.getLsbD 5 ∧
    matchZeroes b (Config.tagZeroes &&& 0xA0) = (!b.getLsbD 7 && !b.getLsbD 5) ∧
    matchZeroes b (Config.tagOnes &&& 0x02) = !b.getLsbD 1 ∧
    tagOk b = (!b.getLsbD 7 && b.getLsbD 6 && !b.getLsbD 5 && b.getLsbD 1) := by decide

/-- The tests of byte 0 by bits of the header (41_frame_validation.md R65). -/
theorem hdr0_tests : ∀ b : Byte,
    matchZeroes b (Config.hdr0Ones &&& 0x80) = !b.getLsbD 7 ∧
    matchZeroes b (Config.hdr0Ones &&& 0x20) = !b.getLsbD 5 ∧
    matchZeroes b (Config.hdr0Ones &&& 0x10) = !b.getLsbD 4 ∧
    matchZeroes b (Config.hdr0Ones &&& 0x02) = !b.getLsbD 1 ∧
    matchOnes b (Config.hdr0Ones &&& 0x80) = b.getLsbD 7 ∧
    matchOnes b (Config.hdr0Ones &&& 0xA0) = (b.getLsbD 7 && b.getLsbD 5) ∧
    matchOnes b (Config.hdr0Ones &&& 0xB0) = (b.getLsbD 7 && b.getLsbD 5 && b.getLsbD 4) ∧
    matchOnes b Config.hdr0Ones = (b.getLsbD 7 && b.getLsbD 5 && b.getLsbD 4 && b.getLsbD 1) := by decide

/-- The tests of byte 1 by the one bit of the header there. -/
theorem hdr1_tests : ∀ b : Byte, matchZeroes b (Config.hdr1Ones &&& 0x80) = !b.getLsbD 7 ∧
    matchOnes b Config.hdr1Ones = b.getLsbD 7 := by decide

/-- The tests of byte 2 by the tag and the selector bits S2, S1 and S0 (30_encoding.md R46; 42_payload_demux.md R73). -/
theorem selector_tests : ∀ b : Byte,
    isErr b = (tagOk b && (b.getLsbD 4 && b.getLsbD 3 && !b.getLsbD 2)) ∧
    isOkA b = (tagOk b && (!b.getLsbD 4 && !b.getLsbD 3 && !b.getLsbD 2)) ∧
    isOkB b = (tagOk b && (!b.getLsbD 4 && !b.getLsbD 3 && b.getLsbD 2)) ∧
    (matchOnes b (Config.tagOnes ||| 0x08) && matchZeroes b (Config.tagZeroes ||| 0x10)) =
      (tagOk b && (!b.getLsbD 4 && b.getLsbD 3)) ∧
    (matchOnes b (Config.tagOnes ||| 0x10) && matchZeroes b (Config.tagZeroes ||| 0x08)) =
      (tagOk b && (b.getLsbD 4 && !b.getLsbD 3)) ∧
    (matchOnes b (Config.tagOnes ||| 0x1C) && matchZeroes b Config.tagZeroes) =
      (tagOk b && (b.getLsbD 4 && b.getLsbD 3 && b.getLsbD 2)) := by decide

theorem tagOk_of_isErr : ∀ b : Byte, isErr b = true → tagOk b = true := by decide

/-- A reading of the first pattern passes the tag and is no error (42_payload_demux.md R74). -/
theorem isOkA_apart : ∀ b : Byte, isOkA b = true → tagOk b = true ∧ isErr b = false := by decide

/-- A reading of the second pattern matches neither pattern tested before it (42_payload_demux.md R74). -/
theorem isOkB_apart : ∀ b : Byte, isOkB b = true → tagOk b = true ∧ isErr b = false ∧ isOkA b = false := by
  decide

@[simp] theorem matchOnes_zero (b : Byte) : matchOnes b 0#8 = true := by simp [matchOnes]
@[simp] theorem matchZeroes_zero (b : Byte) : matchZeroes b 0#8 = true := by simp [matchZeroes]

/-- A ones-mask and a zeroes-mask apart from it are one mask-and-match test (40_bit_matcher.md R62). -/
theorem matchOnes_and_matchZeroes_iff {b ones zeroes : Byte} (hapart : ones &&& zeroes = 0#8) :
    (matchOnes b ones = true ∧ matchZeroes b zeroes = true) ↔ b &&& (ones ||| zeroes) = ones := by
  simp only [matchOnes, matchZeroes, beq_iff_eq]
  constructor
  · rintro ⟨hones, hzeroes⟩
    rw [BitVec.and_or_distrib_left, hones, hzeroes]
    exact BitVec.or_zero
  · intro h
    have hones : (ones ||| zeroes) &&& ones = ones := by ext; simp +contextual
    have hzeroes : (ones ||| zeroes) &&& zeroes = zeroes := by ext; simp +contextual
    constructor
    · rw [← hones, ← BitVec.and_assoc, h, BitVec.and_self, hones]
    · rw [← hzeroes, ← BitVec.and_assoc, h, hapart]
      rfl

/-! ### The rows' tests, byte by byte -/

section Selects
variable (b0 b1 b2 b3 b4 b5 m0 m1 m2 : Byte) (mnemonic : String) (priority : Nat) (build : Nat → FrameWord → Instr)

theorem selects_missingOneRow :
    (missingOneRow mnemonic priority (headWord m0 m1 m2) build).selects (frameWord b0 b1 b2 b3 b4 b5) =
      (matchZeroes b0 m0 && matchZeroes b1 m1 && matchZeroes b2 m2) := by
  rw [Bool.eq_iff_iff, selects_frameWord (v0 := 0) (v1 := 0) (v2 := 0) (v3 := 0) (v4 := 0) (v5 := 0) rfl rfl]
  simp [matchZeroes, and_assoc]

theorem selects_extraOneRow :
    (extraOneRow mnemonic priority (headWord m0 m1 m2) build).selects (frameWord b0 b1 b2 b3 b4 b5) =
      (matchOnes b0 m0 && matchOnes b1 m1 && matchOnes b2 m2) := by
  rw [Bool.eq_iff_iff, selects_frameWord rfl rfl]
  simp [matchOnes, and_assoc]

theorem selects_validRow {ones zeroes : Byte} (hapart : ones &&& zeroes = 0#8) :
    (validRow mnemonic priority ones zeroes build).selects (frameWord b0 b1 b2 b3 b4 b5) =
      (hdrOk b0 b1 && (matchOnes b2 ones && matchZeroes b2 zeroes)) := by
  rw [Bool.eq_iff_iff, selects_frameWord rfl rfl, ← matchOnes_and_matchZeroes_iff hapart]
  simp [hdrOk, matchOnes, and_assoc]

theorem selects_errorRow : errorRow.selects (frameWord b0 b1 b2 b3 b4 b5) = (hdrOk b0 b1 && isErr b2) :=
  selects_validRow _ _ _ _ _ _ _ _ _ (by decide)

theorem selects_readingARow : readingARow.selects (frameWord b0 b1 b2 b3 b4 b5) = (hdrOk b0 b1 && isOkA b2) :=
  selects_validRow _ _ _ _ _ _ _ _ _ (by decide)

theorem selects_readingBRow : readingBRow.selects (frameWord b0 b1 b2 b3 b4 b5) = (hdrOk b0 b1 && isOkB b2) :=
  selects_validRow _ _ _ _ _ _ _ _ _ (by decide)

theorem selects_overrun4ARow :
    (validRow mnemonic priority (Config.tagOnes ||| 0x08) (Config.tagZeroes ||| 0x10) build).selects
        (frameWord b0 b1 b2 b3 b4 b5) = (hdrOk b0 b1 && (tagOk b2 && (!b2.getLsbD 4 && b2.getLsbD 3))) := by
  obtain ⟨-, -, -, h4A, -⟩ := selector_tests b2
  rw [selects_validRow _ _ _ _ _ _ _ _ _ (by decide), h4A]

theorem selects_overrun52Row :
    (validRow mnemonic priority (Config.tagOnes ||| 0x10) (Config.tagZeroes ||| 0x08) build).selects
        (frameWord b0 b1 b2 b3 b4 b5) = (hdrOk b0 b1 && (tagOk b2 && (b2.getLsbD 4 && !b2.getLsbD 3))) := by
  obtain ⟨-, -, -, -, h52, -⟩ := selector_tests b2
  rw [selects_validRow _ _ _ _ _ _ _ _ _ (by decide), h52]

theorem selects_lastOverrunRow : lastOverrunRow.selects (frameWord b0 b1 b2 b3 b4 b5) =
    (hdrOk b0 b1 && (tagOk b2 && (b2.getLsbD 4 && b2.getLsbD 3 && b2.getLsbD 2))) := by
  obtain ⟨-, -, -, -, -, h5E⟩ := selector_tests b2
  rw [lastOverrunRow, selects_validRow _ _ _ _ _ _ _ _ _ (by decide), h5E]

end Selects

/-! ### The groups of rows -/

section Groups
variable (b0 b1 b2 b3 b4 b5 : Byte)

/-- The rows whose header passes (30_encoding.md R51, priorities 4 to 6). -/
def validRows : List ClassRow := errorRow :: readingARow :: readingBRow :: (overrunRows ++ [lastOverrunRow])

/-- The table's rows by group. -/
theorem classRows_eq : classRows = (tagRows ++ [lastTagRow]) ++ ((hdrRows ++ [lastHdrRow]) ++ validRows) := rfl

/-- A type-tag row matches exactly where the tag fails (41_frame_validation.md R64). -/
theorem any_tagRows :
    (tagRows ++ [lastTagRow]).any (·.selects (frameWord b0 b1 b2 b3 b4 b5)) = !tagOk b2 := by
  simp only [tagRows, lastTagRow, List.cons_append, List.nil_append, List.any_cons, List.any_nil,
    selects_extraOneRow, selects_missingOneRow, tag_tests]
  simp [Bool.or_assoc]

/-- A header row matches exactly where the header fails (41_frame_validation.md R65). -/
theorem any_hdrRows :
    (hdrRows ++ [lastHdrRow]).any (·.selects (frameWord b0 b1 b2 b3 b4 b5)) = !hdrOk b0 b1 := by
  simp only [hdrRows, lastHdrRow, List.cons_append, List.nil_append, List.any_cons, List.any_nil,
    selects_missingOneRow, hdr0_tests, hdr1_tests, hdrOk]
  simp [Bool.or_assoc]

variable {b0 b1 b2}

/-- Some overrun row matches a valid frame that no pattern matches (42_payload_demux.md R73). -/
theorem any_overrunRows (htag : tagOk b2 = true) (hhdr : hdrOk b0 b1 = true) (herr : isErr b2 = false)
    (hokA : isOkA b2 = false) (hokB : isOkB b2 = false) :
    (overrunRows ++ [lastOverrunRow]).any (·.selects (frameWord b0 b1 b2 b3 b4 b5)) = true := by
  obtain ⟨herr', hokA', hokB', -⟩ := selector_tests b2
  simp only [overrunRows, List.cons_append, List.nil_append, List.any_cons, List.any_nil, selects_overrun4ARow,
    selects_overrun52Row, selects_lastOverrunRow, htag, hhdr, Bool.true_and]
  rw [herr', htag] at herr
  rw [hokA', htag] at hokA
  rw [hokB', htag] at hokB
  clear herr' hokA' hokB'
  generalize b2.getLsbD 4 = s2, b2.getLsbD 3 = s1, b2.getLsbD 2 = s0 at *
  revert s2 s1 s0
  decide

/-- Exactly one row of priority 4 to 6 matches a frame word whose header and tag pass, and none any other. -/
theorem countP_validRows : validRows.countP (·.selects (frameWord b0 b1 b2 b3 b4 b5)) =
    if hdrOk b0 b1 && tagOk b2 then 1 else 0 := by
  obtain ⟨herr, hokA, hokB, -⟩ := selector_tests b2
  simp only [validRows, overrunRows, List.cons_append, List.nil_append, List.countP_cons, List.countP_nil,
    selects_errorRow, selects_readingARow, selects_readingBRow, selects_overrun4ARow, selects_overrun52Row,
    selects_lastOverrunRow, herr, hokA, hokB]
  cases hdrOk b0 b1 with
  | false => rfl
  | true => cases tagOk b2 with
    | false => rfl
    | true =>
      generalize b2.getLsbD 4 = s2, b2.getLsbD 3 = s1, b2.getLsbD 2 = s0
      revert s2 s1 s0
      decide

end Groups

/-- Of some rows and a last one, of which some match, the first that matches. -/
theorem find?_concat_of_any {rows : List ClassRow} {last : ClassRow} {p : ClassRow → Bool}
    (h : (rows ++ [last]).any p = true) : (rows ++ [last]).find? p = some ((rows.find? p).getD last) := by
  rw [List.find?_append]
  cases hfirst : rows.find? p with
  | some row => rfl
  | none =>
    have hlast : p last = true := by
      simpa [List.any_eq_false.mpr (List.find?_eq_none.mp hfirst)] using h
    simp [hlast]

/-- No row is found where none matches. -/
theorem find?_eq_none_of_any {rows : List ClassRow} {p : ClassRow → Bool} (h : rows.any p = false) :
    rows.find? p = none :=
  List.find?_eq_none.mpr (List.any_eq_false.mp h)

/-- Each frame word is the word of some bytes. -/
theorem exists_frameWord (w : FrameWord) : ∃ b0 b1 b2 b3 b4 b5, w = frameWord b0 b1 b2 b3 b4 b5 :=
  ⟨_, _, _, _, _, _, (frameWord_frameBytes w).symm⟩

/-- The ordered checks take the first row of the table that matches (30_encoding.md R51). -/
theorem find?_classRows (w : FrameWord) : classRows.find? (·.selects w) = some (rowOf w) := by
  obtain ⟨b0, b1, b2, b3, b4, b5, rfl⟩ := exists_frameWord w
  have htags := any_tagRows b0 b1 b2 b3 b4 b5
  have hhdrs := any_hdrRows b0 b1 b2 b3 b4 b5
  rw [classRows_eq, List.find?_append (xs := tagRows ++ [lastTagRow]),
    List.find?_append (xs := hdrRows ++ [lastHdrRow])]
  cases htag : tagOk b2 with
  | false =>
    rw [htag] at htags
    rw [find?_concat_of_any htags, Option.some_or]
    simp [rowOf, htag]
  | true => cases hhdr : hdrOk b0 b1 with
    | false =>
      rw [htag] at htags
      rw [hhdr] at hhdrs
      rw [find?_eq_none_of_any htags, find?_concat_of_any hhdrs, Option.none_or, Option.some_or]
      simp [rowOf, htag, hhdr]
    | true =>
      rw [htag] at htags
      rw [hhdr] at hhdrs
      rw [find?_eq_none_of_any htags, find?_eq_none_of_any hhdrs, Option.none_or, Option.none_or]
      simp only [validRows, List.find?_cons, selects_errorRow, selects_readingARow, selects_readingBRow, hhdr,
        Bool.true_and, rowOf, byteAt_frameWord, htag]
      cases herr : isErr b2 with
      | true => rfl
      | false => cases hokA : isOkA b2 with
        | true => rfl
        | false => cases hokB : isOkB b2 with
          | true => rfl
          | false => exact find?_concat_of_any (any_overrunRows b3 b4 b5 htag hhdr herr hokA hokB)

/-- The decoder's row is one of the table's. -/
theorem rowOf_mem (w : FrameWord) : rowOf w ∈ classRows := List.mem_of_find?_eq_some (find?_classRows w)

/-- A request long enough is decoded from its frame word. -/
theorem decode_of_requestWord {r : Request} {w : FrameWord} (hlen : 6 ≤ r.len) (hw : requestWord r = .ok w) :
    decode r = .ok (decodeWord r.len w) := by
  have hok : lenOk r.len = true := decide_eq_true hlen
  simp [decode, hok, hw]

/-! ### Rows of one priority -/

/-- The priorities in the table (30_encoding.md R51). -/
theorem priority_mem : ∀ row ∈ classRows, row.priority ∈ [2, 3, 4, 5, 6] := by
  decide

/-- The two reading rows match no word together (42_payload_demux.md R70, R71). -/
theorem readingRows_apart (w : FrameWord) : ¬ (readingARow.selects w = true ∧ readingBRow.selects w = true) := by
  obtain ⟨b0, b1, b2, b3, b4, b5, rfl⟩ := exists_frameWord w
  rw [selects_readingARow, selects_readingBRow, Bool.and_eq_true, Bool.and_eq_true]
  rintro ⟨⟨-, hokA⟩, -, hokB⟩
  exact absurd hokB (Bool.eq_false_iff.mp (isOkB_of_isOkA b2 hokA))

/-- Rows of one priority that match one word answer alike. -/
theorem tied_rows_answer_alike (w : FrameWord) (len : Nat) {row₁ row₂ : ClassRow} (hrow₁ : row₁ ∈ classRows)
    (hrow₂ : row₂ ∈ classRows) (htied : row₁.priority = row₂.priority) (hsel₁ : row₁.selects w = true)
    (hsel₂ : row₂.selects w = true) (s : State) : exec (row₁.build len w) s = exec (row₂.build len w) s := by
  have hmem₁ : row₁ ∈ classRows.filter (·.priority == row₁.priority) := by simpa using hrow₁
  have hmem₂ : row₂ ∈ classRows.filter (·.priority == row₁.priority) := by simpa [htied] using hrow₂
  have hprio := priority_mem row₁ hrow₁
  generalize row₁.priority = p at hmem₁ hmem₂ hprio
  simp only [List.mem_cons, List.not_mem_nil, or_false] at hprio
  rcases hprio with rfl | rfl | rfl | rfl | rfl
  · rw [tagRows_answer row₁ hmem₁, tagRows_answer row₂ hmem₂]
  · rw [hdrRows_answer row₁ hmem₁, hdrRows_answer row₂ hmem₂]
  · change row₁ ∈ [errorRow] at hmem₁
    change row₂ ∈ [errorRow] at hmem₂
    rw [List.mem_singleton.mp hmem₁, List.mem_singleton.mp hmem₂]
  · change row₁ ∈ [readingARow, readingBRow] at hmem₁
    change row₂ ∈ [readingARow, readingBRow] at hmem₂
    rw [List.mem_pair] at hmem₁ hmem₂
    rcases hmem₁ with rfl | rfl <;> rcases hmem₂ with rfl | rfl
    · rfl
    · exact absurd ⟨hsel₁, hsel₂⟩ (readingRows_apart w)
    · exact absurd ⟨hsel₂, hsel₁⟩ (readingRows_apart w)
    · rfl
  · rw [overrunRows_answer row₁ hmem₁, overrunRows_answer row₂ hmem₂]

/-- The rows of priority 4 to 6 that match are those of `validRows`. -/
theorem filter_priority_selects (w : FrameWord) :
    (classRows.filter fun row => decide (4 ≤ row.priority) && row.selects w).length =
      validRows.countP (·.selects w) := by
  have hvalid : classRows.filter (fun row => decide (4 ≤ row.priority)) = validRows := rfl
  rw [List.countP_eq_length_filter, ← hvalid, List.filter_filter]
  simp only [Bool.and_comm]

/-- Where no row of priority 2 or 3 matches, the tag and the header pass (41_frame_validation.md R66). -/
theorem checks_pass_of_no_row {b0 b1 b2 b3 b4 b5 : Byte}
    (h : ∀ row ∈ classRows, row.priority ≤ 3 → row.selects (frameWord b0 b1 b2 b3 b4 b5) = false) :
    (hdrOk b0 b1 && tagOk b2) = true := by
  have hlow (rows : List ClassRow) (hsub : rows ⊆ classRows) (hprio : ∀ row ∈ rows, row.priority ≤ 3) :
      rows.any (·.selects (frameWord b0 b1 b2 b3 b4 b5)) = false := by
    rw [List.any_eq_false]
    exact fun row hrow => Bool.eq_false_iff.mp (h row (hsub hrow) (hprio row hrow))
  have htags := hlow (tagRows ++ [lastTagRow]) (by rw [classRows_eq]; exact List.subset_append_left _ _) (by decide)
  have hhdrs := hlow (hdrRows ++ [lastHdrRow])
    (by rw [classRows_eq]; exact List.Subset.trans (List.subset_append_left _ _) (List.subset_append_right _ _))
    (by decide)
  rw [any_tagRows, Bool.not_eq_false'] at htags
  rw [any_hdrRows, Bool.not_eq_false'] at hhdrs
  rw [htags, hhdrs, Bool.and_self]

/-- Settles O19: the groups of rows match exactly where the checks of R66 and R74 fail or pass, so first match and
ordered checks take the same row. -/
theorem firstMatchingRowGivesOrderedOutcome : Obligations.FirstMatchingRowGivesOrderedOutcome := by
  refine ⟨fun r hshort => decode_short hshort, fun r hwf hlen => ?_, rfl,
    fun w len _ h₁ _ h₂ => tied_rows_answer_alike w len h₁ h₂,
    fun w => ?_, fun w hnone => ?_, fun r hwf => (Request.responseOf_of_wf hwf).1⟩
  · obtain ⟨b0, b1, b2, b3, b4, b5, hbytes, hword⟩ := Request.six_bytes hwf hlen
    exact ⟨_, rowOf _, hword, by rw [hbytes, frameBytes_frameWord], find?_classRows _,
      decode_of_requestWord hlen hword⟩
  · obtain ⟨b0, b1, b2, b3, b4, b5, rfl⟩ := exists_frameWord w
    rw [filter_priority_selects, countP_validRows]
    split <;> decide
  · obtain ⟨b0, b1, b2, b3, b4, b5, rfl⟩ := exists_frameWord w
    rw [filter_priority_selects, countP_validRows, if_pos (checks_pass_of_no_row hnone)]

end Sys2Proof.Machine

namespace Sys2Proof.Machine

open Sys2Proof

/-! SUPPORT. Decoder and encoder undo each other: what the decoder makes of a frame word, row by row, and which word
the encoder makes of it (30_encoding.md R46, R47, R51). -/

/-! ### A byte split at one of its bits -/

section SplitAtBit
variable {m n : Nat} {c : BitVec 1}

/-- The byte of three parts, and the parts read from it. -/
theorem exists_append (hi : BitVec m) (c : BitVec 1) (lo : BitVec n) : ∃ b : BitVec (m + 1 + n),
    hi ++ c ++ lo = b ∧ b.extractLsb' (n + 1) m = hi ∧ b.getLsbD n = c.getLsbD 0 ∧ b.extractLsb' 0 n = lo := by
  refine ⟨_, rfl, ?_, ?_, ?_⟩
  · ext k hk
    have hlo : ¬ n + 1 + k < n := by omega
    have hc : n + 1 + k - n = k + 1 := by omega
    simp [BitVec.getLsbD_append, hlo, hc, BitVec.getLsbD_eq_getElem hk]
  · simp only [BitVec.getLsbD_append, Nat.lt_irrefl, Nat.sub_self, if_false, Nat.one_pos, if_true]
  · ext k hk
    simp [BitVec.getLsbD_append, hk]

/-- As `exists_append`, split at the top bit. -/
theorem exists_append_top (c : BitVec 1) (lo : BitVec n) : ∃ b : BitVec (1 + n),
    c ++ lo = b ∧ b.getLsbD n = c.getLsbD 0 ∧ b.extractLsb' 0 n = lo := by
  refine ⟨_, rfl, ?_, ?_⟩
  · simp only [BitVec.getLsbD_append, Nat.lt_irrefl, Nat.sub_self, if_false]
  · ext k hk
    simp [BitVec.getLsbD_append, hk]

/-- A byte's three parts make it up again. -/
theorem append_of_parts {b : BitVec (m + 1 + n)} (hc : c.getLsbD 0 = b.getLsbD n) :
    b.extractLsb' (n + 1) m ++ c ++ b.extractLsb' 0 n = b := by
  apply BitVec.eq_of_getLsbD_eq
  intro k hk
  simp only [BitVec.getLsbD_append, BitVec.getLsbD_extractLsb']
  rcases Nat.lt_trichotomy k n with hlo | rfl | hhi
  · simp [hlo]
  · simpa using hc
  · have hlo : ¬ k < n := by omega
    have hmid : ¬ k - n < 1 := by omega
    have hlt : k - n - 1 < m := by omega
    have hk' : n + 1 + (k - n - 1) = k := by omega
    simp [hlo, hmid, hlt, hk']

/-- As `append_of_parts`, split at the top bit. -/
theorem append_top_of_parts {b : BitVec (1 + n)} (hc : c.getLsbD 0 = b.getLsbD n) : c ++ b.extractLsb' 0 n = b := by
  apply BitVec.eq_of_getLsbD_eq
  intro k hk
  simp only [BitVec.getLsbD_append, BitVec.getLsbD_extractLsb']
  by_cases hlo : k < n
  · simp [hlo]
  · obtain rfl : k = n := by omega
    simpa using hc

end SplitAtBit

/-! ### A byte made of the bits under a mask and the others -/

section Merge
variable {fixed free m : Byte}

/-- A byte is its bits under a mask and the others. -/
theorem and_or_clearBits (b m : Byte) : (b &&& m) ||| clearBits b m = b := by
  unfold clearBits
  ext k hk
  cases h : m[k] <;> simp [h]

theorem clearBits_or_and (b m : Byte) : clearBits b m ||| (b &&& m) = b := by
  rw [BitVec.or_comm, and_or_clearBits]

/-- Bits under a mask, put together with others, are read back by the mask. -/
theorem merge_and (hfixed : fixed &&& m = fixed) (hfree : free &&& m = 0#8) : (fixed ||| free) &&& m = fixed := by
  rw [BitVec.and_or_distrib_right, hfixed, hfree]
  exact BitVec.or_zero

/-- Bits outside a mask, put together with others, are read back by clearing the mask. -/
theorem clearBits_merge (hfixed : fixed &&& m = fixed) (hfree : free &&& m = 0#8) :
    clearBits (fixed ||| free) m = free := by
  have hcleared : fixed &&& ~~~m = 0#8 := by
    rw [← hfixed, BitVec.and_assoc]
    simp
  have hkept : free &&& ~~~m = free := by
    have h := and_or_clearBits free m
    rwa [hfree, clearBits, BitVec.zero_or] at h
  rw [clearBits, BitVec.and_or_distrib_right, hcleared, hkept, BitVec.zero_or]

@[simp] theorem matchZeroes_clearBits (b m : Byte) : matchZeroes (clearBits b m) m = true := by
  rw [matchZeroes, clearBits_and]
  rfl

theorem matchOnes_or (ones b : Byte) : matchOnes (ones ||| b) ones = true := by
  rw [matchOnes, beq_iff_eq]
  ext
  simp +contextual

variable {ones zeroes b : Byte}

/-- A byte that matches a pattern is the pattern's ones and the bits it leaves free. -/
theorem pattern_or_clearBits (hapart : ones &&& zeroes = 0#8)
    (h : (matchOnes b ones && matchZeroes b zeroes) = true) : ones ||| clearBits b (ones ||| zeroes) = b := by
  have hones := (matchOnes_and_matchZeroes_iff hapart).mp (Bool.and_eq_true_iff.mp h)
  simpa only [hones] using and_or_clearBits b (ones ||| zeroes)

/-- A pattern's ones and bits it leaves free match it, and the free bits are read back. -/
theorem pattern_merge (hapart : ones &&& zeroes = 0#8) (h : byte2FreeOk b ones zeroes = true) :
    (matchOnes (ones ||| b) ones && matchZeroes (ones ||| b) zeroes) = true ∧
      clearBits (ones ||| b) (ones ||| zeroes) = b := by
  have hfree : b &&& (ones ||| zeroes) = 0#8 := by simpa [byte2FreeOk, matchZeroes] using h
  have hfixed : ones &&& (ones ||| zeroes) = ones := by ext; simp +contextual
  refine ⟨?_, clearBits_merge hfixed hfree⟩
  rw [Bool.and_eq_true, matchOnes_and_matchZeroes_iff hapart, merge_and hfixed hfree]

end Merge

/-! ### The parts of a valid frame -/

section Parts
variable {b0 b1 : Byte}

@[simp] theorem headerFree_ok (w : FrameWord) : (headerFree w).ok = true := by
  simp [headerFree, HeaderFree.ok]

@[simp] theorem byte4Ok_split (b : Byte) :
    byte4Ok (clearBits b Config.lambdaHiMask) (b &&& Config.lambdaHiMask) = true := by
  simp [byte4Ok, matchZeroes, clearBits_and, BitVec.and_assoc]

@[simp] theorem overrunFreeOk_overrunRest (w : FrameWord) : overrunFreeOk (overrunRest w) = true :=
  matchZeroes_clearBits _ _

theorem overrunRest_frameWord (b0 b1 b2 b3 b4 b5 : Byte) : overrunRest (frameWord b0 b1 b2 b3 b4 b5) =
    clearBits b2 (Config.tagOnes ||| selectorMask ||| Config.tagZeroes) := by
  simp [overrunRest]

/-- A header that passes is its ones and its free bits. -/
theorem validWord_headerFree (hhdr : hdrOk b0 b1 = true) (b2 b3 b4 b5 c2 c3 c4 c5 : Byte) :
    validWord (headerFree (frameWord b0 b1 b2 b3 b4 b5)) c2 c3 c4 c5 = frameWord b0 b1 c2 c3 c4 c5 := by
  simp only [hdrOk, matchOnes, Bool.and_eq_true, beq_iff_eq] at hhdr
  obtain ⟨h0, h1⟩ := hhdr
  have hb0 : Config.hdr0Ones ||| clearBits b0 Config.hdr0Ones = b0 := by
    simpa only [h0] using and_or_clearBits b0 Config.hdr0Ones
  have hb1 : Config.hdr1Ones ||| clearBits b1 Config.hdr1Ones = b1 := by
    simpa only [h1] using and_or_clearBits b1 Config.hdr1Ones
  simp [validWord, headerFree, hb0, hb1]

/-- A valid frame's free header bits are read back. -/
theorem headerFree_validWord {h : HeaderFree} (hok : h.ok = true) (b2 b3 b4 b5 : Byte) :
    headerFree (validWord h b2 b3 b4 b5) = h := by
  simp only [HeaderFree.ok, matchZeroes, Bool.and_eq_true, beq_iff_eq] at hok
  obtain ⟨h0, h1⟩ := hok
  simp [headerFree, validWord, clearBits_merge BitVec.and_self h0, clearBits_merge BitVec.and_self h1]

theorem hdrOk_or (b0 b1 : Byte) : hdrOk (Config.hdr0Ones ||| b0) (Config.hdr1Ones ||| b1) = true := by
  rw [hdrOk, matchOnes_or, matchOnes_or, Bool.and_self]

/-- The two parts of byte 4 are read back (43_field_extract.md R77). -/
theorem byte4_merge {rest hi : Byte} (h : byte4Ok rest hi = true) :
    clearBits (rest ||| hi) Config.lambdaHiMask = rest ∧ (rest ||| hi) &&& Config.lambdaHiMask = hi := by
  simp only [byte4Ok, matchZeroes, Bool.and_eq_true, beq_iff_eq] at h
  obtain ⟨hrest, hhi⟩ := h
  have hfixed : hi &&& Config.lambdaHiMask = hi := by
    have hparts := and_or_clearBits hi Config.lambdaHiMask
    rw [clearBits, hhi] at hparts
    simpa using hparts
  rw [BitVec.or_comm]
  exact ⟨clearBits_merge hfixed hrest, merge_and hfixed hrest⟩

/-- Byte 2 of an overrun is the row's ones, S0 where the row leaves it free, and what no check tests. -/
theorem overrun_byte2 : ∀ b : Byte, tagOk b = true →
    let rest := clearBits b (Config.tagOnes ||| selectorMask ||| Config.tagZeroes)
    let s0 := selectorS0 (b.extractLsb' 2 1)
    (b.getLsbD 4 = false → b.getLsbD 3 = true → Config.tagOnes ||| 0x08 ||| s0 ||| rest = b) ∧
    (b.getLsbD 4 = true → b.getLsbD 3 = false → Config.tagOnes ||| 0x10 ||| s0 ||| rest = b) ∧
    (b.getLsbD 4 = true → b.getLsbD 3 = true → b.getLsbD 2 = true → Config.tagOnes ||| 0x1C ||| rest = b) := by
  decide

/-- Byte 2 as OVERRUN_4A's encoder makes it passes the tag, has the row's selector bits, and gives its parts back. -/
theorem overrun4A_merge : ∀ (s0 : BitVec 1) (rest : Byte), overrunFreeOk rest = true →
    let b := Config.tagOnes ||| 0x08 ||| selectorS0 s0 ||| rest
    tagOk b = true ∧ b.getLsbD 4 = false ∧ b.getLsbD 3 = true ∧ b.extractLsb' 2 1 = s0 ∧
      clearBits b (Config.tagOnes ||| selectorMask ||| Config.tagZeroes) = rest := by decide

/-- As `overrun4A_merge`, for OVERRUN_52. -/
theorem overrun52_merge : ∀ (s0 : BitVec 1) (rest : Byte), overrunFreeOk rest = true →
    let b := Config.tagOnes ||| 0x10 ||| selectorS0 s0 ||| rest
    tagOk b = true ∧ b.getLsbD 4 = true ∧ b.getLsbD 3 = false ∧ b.extractLsb' 2 1 = s0 ∧
      clearBits b (Config.tagOnes ||| selectorMask ||| Config.tagZeroes) = rest := by decide

/-- As `overrun4A_merge`, for OVERRUN_5E. -/
theorem overrun5E_merge : ∀ rest : Byte, overrunFreeOk rest = true →
    let b := Config.tagOnes ||| 0x1C ||| rest
    tagOk b = true ∧ b.getLsbD 4 = true ∧ b.getLsbD 3 = true ∧ b.getLsbD 2 = true ∧
      clearBits b (Config.tagOnes ||| selectorMask ||| Config.tagZeroes) = rest := by decide

end Parts

/-! ### The decoder, an equation per row -/

section Rows
variable (len : Nat) {b0 b1 b2 : Byte} (b3 b4 b5 : Byte)

theorem decodeWord_tagB2Bit7 (h7 : b2.getLsbD 7 = true) :
    decodeWord len (frameWord b0 b1 b2 b3 b4 b5) =
      .unrecognizedTagB2Bit7 len b0 b1 (b2.extractLsb' 0 7) b3 b4 b5 := by
  simp only [decodeWord, rowOf, byteAt_frameWord, tagRows, List.find?_cons, selects_extraOneRow, tag_tests, h7]
  simp [extraOneRow]

theorem decodeWord_tagB2Bit6 (h7 : b2.getLsbD 7 = false) (h6 : b2.getLsbD 6 = false) :
    decodeWord len (frameWord b0 b1 b2 b3 b4 b5) =
      .unrecognizedTagB2Bit6 len b0 b1 (b2.extractLsb' 7 1) (b2.extractLsb' 0 6) b3 b4 b5 := by
  simp only [decodeWord, rowOf, byteAt_frameWord, tagRows, List.find?_cons, selects_extraOneRow, selects_missingOneRow,
    tag_tests, h7, h6]
  simp [missingOneRow]

theorem decodeWord_tagB2Bit5 (h7 : b2.getLsbD 7 = false) (h6 : b2.getLsbD 6 = true) (h5 : b2.getLsbD 5 = true) :
    decodeWord len (frameWord b0 b1 b2 b3 b4 b5) =
      .unrecognizedTagB2Bit5 len b0 b1 (b2.extractLsb' 6 2) (b2.extractLsb' 0 5) b3 b4 b5 := by
  simp only [decodeWord, rowOf, byteAt_frameWord, tagRows, List.find?_cons, selects_extraOneRow, selects_missingOneRow,
    tag_tests, h7, h6, h5]
  simp [extraOneRow]

theorem decodeWord_tagB2Bit1 (h7 : b2.getLsbD 7 = false) (h6 : b2.getLsbD 6 = true) (h5 : b2.getLsbD 5 = false)
    (h1 : b2.getLsbD 1 = false) :
    decodeWord len (frameWord b0 b1 b2 b3 b4 b5) =
      .unrecognizedTagB2Bit1 len b0 b1 (b2.extractLsb' 2 6) (b2.extractLsb' 0 1) b3 b4 b5 := by
  simp only [decodeWord, rowOf, byteAt_frameWord, tagRows, List.find?_cons, List.find?_nil, selects_extraOneRow,
    selects_missingOneRow, tag_tests, h7, h6, h5, h1]
  simp [lastTagRow, missingOneRow]

theorem decodeWord_hdrB0Bit7 (htag : tagOk b2 = true) (h7 : b0.getLsbD 7 = false) :
    decodeWord len (frameWord b0 b1 b2 b3 b4 b5) =
      .unrecognizedHdrB0Bit7 len (b0.extractLsb' 0 7) b1 b2 b3 b4 b5 := by
  simp only [decodeWord, rowOf, byteAt_frameWord, htag, hdrOk, hdrRows, List.find?_cons, selects_missingOneRow,
    hdr0_tests, h7]
  simp [missingOneRow]

theorem decodeWord_hdrB0Bit5 (htag : tagOk b2 = true) (h7 : b0.getLsbD 7 = true) (h5 : b0.getLsbD 5 = false) :
    decodeWord len (frameWord b0 b1 b2 b3 b4 b5) =
      .unrecognizedHdrB0Bit5 len (b0.extractLsb' 6 2) (b0.extractLsb' 0 5) b1 b2 b3 b4 b5 := by
  simp only [decodeWord, rowOf, byteAt_frameWord, htag, hdrOk, hdrRows, List.find?_cons, selects_missingOneRow,
    hdr0_tests, h7, h5]
  simp [missingOneRow]

theorem decodeWord_hdrB0Bit4 (htag : tagOk b2 = true) (h7 : b0.getLsbD 7 = true) (h5 : b0.getLsbD 5 = true)
    (h4 : b0.getLsbD 4 = false) :
    decodeWord len (frameWord b0 b1 b2 b3 b4 b5) =
      .unrecognizedHdrB0Bit4 len (b0.extractLsb' 5 3) (b0.extractLsb' 0 4) b1 b2 b3 b4 b5 := by
  simp only [decodeWord, rowOf, byteAt_frameWord, htag, hdrOk, hdrRows, List.find?_cons, selects_missingOneRow,
    hdr0_tests, h7, h5, h4]
  simp [missingOneRow]

theorem decodeWord_hdrB0Bit1 (htag : tagOk b2 = true) (h7 : b0.getLsbD 7 = true) (h5 : b0.getLsbD 5 = true)
    (h4 : b0.getLsbD 4 = true) (h1 : b0.getLsbD 1 = false) :
    decodeWord len (frameWord b0 b1 b2 b3 b4 b5) =
      .unrecognizedHdrB0Bit1 len (b0.extractLsb' 2 6) (b0.extractLsb' 0 1) b1 b2 b3 b4 b5 := by
  simp only [decodeWord, rowOf, byteAt_frameWord, htag, hdrOk, hdrRows, List.find?_cons, selects_missingOneRow,
    hdr0_tests, h7, h5, h4, h1]
  simp [missingOneRow]

theorem decodeWord_hdrB1Bit7 (htag : tagOk b2 = true) (h0 : matchOnes b0 Config.hdr0Ones = true)
    (h7 : b1.getLsbD 7 = false) :
    decodeWord len (frameWord b0 b1 b2 b3 b4 b5) =
      .unrecognizedHdrB1Bit7 len b0 (b1.extractLsb' 0 7) b2 b3 b4 b5 := by
  have hbits := h0
  simp only [hdr0_tests, Bool.and_eq_true] at hbits
  obtain ⟨⟨⟨hb7, hb5⟩, hb4⟩, hb1⟩ := hbits
  simp only [decodeWord, rowOf, byteAt_frameWord, htag, hdrOk, h0, hdr1_tests, h7, hdrRows, List.find?_cons,
    List.find?_nil, selects_missingOneRow, hdr0_tests, hb7, hb5, hb4, hb1]
  simp [lastHdrRow, missingOneRow]

theorem decodeWord_errorFrame (hhdr : hdrOk b0 b1 = true) (herr : isErr b2 = true) :
    decodeWord len (frameWord b0 b1 b2 b3 b4 b5) =
      .errorFrame len (headerFree (frameWord b0 b1 b2 b3 b4 b5)) (clearBits b2 (Config.errOnes ||| Config.errZeroes))
        b3 (clearBits b4 Config.lambdaHiMask) (b4 &&& Config.lambdaHiMask) b5 := by
  have htag := tagOk_of_isErr b2 herr
  simp [decodeWord, rowOf, hhdr, herr, htag, errorRow, validRow]

theorem decodeWord_readingA (hhdr : hdrOk b0 b1 = true) (hokA : isOkA b2 = true) :
    decodeWord len (frameWord b0 b1 b2 b3 b4 b5) =
      .readingA len (headerFree (frameWord b0 b1 b2 b3 b4 b5)) (clearBits b2 (Config.okAOnes ||| Config.okAZeroes))
        b3 (clearBits b4 Config.lambdaHiMask) (b4 &&& Config.lambdaHiMask) b5 := by
  obtain ⟨htag, herr⟩ := isOkA_apart b2 hokA
  simp [decodeWord, rowOf, hhdr, hokA, htag, herr, readingARow, validRow]

theorem decodeWord_readingB (hhdr : hdrOk b0 b1 = true) (hokB : isOkB b2 = true) :
    decodeWord len (frameWord b0 b1 b2 b3 b4 b5) =
      .readingB len (headerFree (frameWord b0 b1 b2 b3 b4 b5)) (clearBits b2 (Config.okBOnes ||| Config.okBZeroes))
        b3 (clearBits b4 Config.lambdaHiMask) (b4 &&& Config.lambdaHiMask) b5 := by
  obtain ⟨htag, herr, hokA⟩ := isOkB_apart b2 hokB
  simp [decodeWord, rowOf, hhdr, hokB, htag, herr, hokA, readingBRow, validRow]

theorem decodeWord_overrun4A (hhdr : hdrOk b0 b1 = true) (htag : tagOk b2 = true) (h4 : b2.getLsbD 4 = false)
    (h3 : b2.getLsbD 3 = true) :
    decodeWord len (frameWord b0 b1 b2 b3 b4 b5) =
      .overrun4A len (headerFree (frameWord b0 b1 b2 b3 b4 b5)) (b2.extractLsb' 2 1)
        (overrunRest (frameWord b0 b1 b2 b3 b4 b5)) b3 b4 b5 := by
  obtain ⟨herr, hokA, hokB, -⟩ := selector_tests b2
  simp only [decodeWord, rowOf, byteAt_frameWord, htag, hhdr, herr, hokA, hokB, h4, h3, overrunRows, List.find?_cons,
    selects_overrun4ARow]
  simp [validRow]

theorem decodeWord_overrun52 (hhdr : hdrOk b0 b1 = true) (htag : tagOk b2 = true) (h4 : b2.getLsbD 4 = true)
    (h3 : b2.getLsbD 3 = false) :
    decodeWord len (frameWord b0 b1 b2 b3 b4 b5) =
      .overrun52 len (headerFree (frameWord b0 b1 b2 b3 b4 b5)) (b2.extractLsb' 2 1)
        (overrunRest (frameWord b0 b1 b2 b3 b4 b5)) b3 b4 b5 := by
  obtain ⟨herr, hokA, hokB, -⟩ := selector_tests b2
  simp only [decodeWord, rowOf, byteAt_frameWord, htag, hhdr, herr, hokA, hokB, h4, h3, overrunRows, List.find?_cons,
    selects_overrun4ARow, selects_overrun52Row]
  simp [validRow]

theorem decodeWord_overrun5E (hhdr : hdrOk b0 b1 = true) (htag : tagOk b2 = true) (h4 : b2.getLsbD 4 = true)
    (h3 : b2.getLsbD 3 = true) (h2 : b2.getLsbD 2 = true) :
    decodeWord len (frameWord b0 b1 b2 b3 b4 b5) =
      .overrun5E len (headerFree (frameWord b0 b1 b2 b3 b4 b5))
        (overrunRest (frameWord b0 b1 b2 b3 b4 b5)) b3 b4 b5 := by
  obtain ⟨herr, hokA, hokB, -⟩ := selector_tests b2
  simp only [decodeWord, rowOf, byteAt_frameWord, htag, hhdr, herr, hokA, hokB, h4, h3, h2, overrunRows,
    List.find?_cons, List.find?_nil, selects_overrun4ARow, selects_overrun52Row]
  simp [lastOverrunRow, validRow]

end Rows

/-! ### The encoder, a malformed row's fixed bit within its byte -/

section Words
variable (len : Nat) (b0 b1 b2 b3 b4 b5 : Byte)

/-- Appending three parts at once or one by one is the same. -/
theorem append_append_assoc {a m n p : Nat} (x : BitVec a) (y : BitVec m) (z : BitVec n) (w : BitVec p) :
    x ++ y ++ z ++ w = (x ++ (y ++ z ++ w)).cast (by omega) := by
  apply BitVec.eq_of_toNat_eq
  simp [BitVec.toNat_append, Nat.shiftLeft_or_distrib, ← Nat.shiftLeft_add, Nat.or_assoc, Nat.add_comm]

theorem encodeWord_tagB2Bit7 (lo : BitVec 7) :
    encodeWord (.unrecognizedTagB2Bit7 len b0 b1 lo b3 b4 b5) = some (frameWord b0 b1 (0b1#1 ++ lo) b3 b4 b5) :=
  congrArg (fun w : BitVec 24 => some (w ++ b3 ++ b4 ++ b5)) (BitVec.append_assoc (x₁ := b0 ++ b1))

theorem encodeWord_tagB2Bit6 (hi : BitVec 1) (lo : BitVec 6) :
    encodeWord (.unrecognizedTagB2Bit6 len b0 b1 hi lo b3 b4 b5) =
      some (frameWord b0 b1 (hi ++ 0b0#1 ++ lo) b3 b4 b5) :=
  congrArg (fun w : BitVec 24 => some (w ++ b3 ++ b4 ++ b5)) (append_append_assoc (b0 ++ b1) ..)

theorem encodeWord_tagB2Bit5 (hi : BitVec 2) (lo : BitVec 5) :
    encodeWord (.unrecognizedTagB2Bit5 len b0 b1 hi lo b3 b4 b5) =
      some (frameWord b0 b1 (hi ++ 0b1#1 ++ lo) b3 b4 b5) :=
  congrArg (fun w : BitVec 24 => some (w ++ b3 ++ b4 ++ b5)) (append_append_assoc (b0 ++ b1) ..)

theorem encodeWord_tagB2Bit1 (hi : BitVec 6) (lo : BitVec 1) :
    encodeWord (.unrecognizedTagB2Bit1 len b0 b1 hi lo b3 b4 b5) =
      some (frameWord b0 b1 (hi ++ 0b0#1 ++ lo) b3 b4 b5) :=
  congrArg (fun w : BitVec 24 => some (w ++ b3 ++ b4 ++ b5)) (append_append_assoc (b0 ++ b1) ..)

theorem encodeWord_hdrB1Bit7 (lo : BitVec 7) :
    encodeWord (.unrecognizedHdrB1Bit7 len b0 lo b2 b3 b4 b5) = some (frameWord b0 (0b0#1 ++ lo) b2 b3 b4 b5) :=
  congrArg (fun w : BitVec 16 => some (w ++ b2 ++ b3 ++ b4 ++ b5)) (BitVec.append_assoc (x₁ := b0))

end Words

/-! ### What the decoder makes of a frame word encodes back to it -/

/-- A well-formed instruction and its frame word (30_encoding.md R46). -/
structure EncodedAs (i : Instr) (w : FrameWord) : Prop where
  wellFormed : i.wellFormed = true
  word : encodeWord i = some w

section Decoded
variable {len : Nat} {b0 b1 b2 : Byte}

/-- The tag rows: the row's bit is the first of the tag at fault, and the others are free. -/
theorem badTag_encodedAs (hlen : lenOk len = true) (htag : tagOk b2 = false) (b0 b1 b3 b4 b5 : Byte) :
    EncodedAs (decodeWord len (frameWord b0 b1 b2 b3 b4 b5)) (frameWord b0 b1 b2 b3 b4 b5) := by
  cases h7 : b2.getLsbD 7 with
  | true =>
    have hb : 0b1#1 ++ b2.extractLsb' 0 7 = b2 := append_top_of_parts (n := 7) h7.symm
    rw [decodeWord_tagB2Bit7 _ _ _ _ h7]
    exact ⟨hlen, by rw [encodeWord_tagB2Bit7, hb]⟩
  | false => cases h6 : b2.getLsbD 6 with
    | false =>
      have hb : b2.extractLsb' 7 1 ++ 0b0#1 ++ b2.extractLsb' 0 6 = b2 :=
        append_of_parts (m := 1) (n := 6) h6.symm
      rw [decodeWord_tagB2Bit6 _ _ _ _ h7 h6]
      constructor
      · rw [Instr.wellFormed, hb]
        simp only [hlen, tag_tests, h7, Bool.not_false, Bool.and_self]
      · rw [encodeWord_tagB2Bit6, hb]
    | true => cases h5 : b2.getLsbD 5 with
      | true =>
        have hb : b2.extractLsb' 6 2 ++ 0b1#1 ++ b2.extractLsb' 0 5 = b2 :=
          append_of_parts (m := 2) (n := 5) h5.symm
        rw [decodeWord_tagB2Bit5 _ _ _ _ h7 h6 h5]
        constructor
        · rw [Instr.wellFormed, hb]
          simp only [hlen, tag_tests, h7, h6, Bool.not_false, Bool.and_self]
        · rw [encodeWord_tagB2Bit5, hb]
      | false =>
        have h1 : b2.getLsbD 1 = false := by
          simpa only [tag_tests, h7, h6, h5, Bool.not_false, Bool.true_and] using htag
        have hb : b2.extractLsb' 2 6 ++ 0b0#1 ++ b2.extractLsb' 0 1 = b2 :=
          append_of_parts (m := 6) (n := 1) h1.symm
        rw [decodeWord_tagB2Bit1 _ _ _ _ h7 h6 h5 h1]
        constructor
        · rw [Instr.wellFormed, hb]
          simp only [hlen, tag_tests, h7, h6, h5, Bool.not_false, Bool.and_self]
        · rw [encodeWord_tagB2Bit1, hb]

/-- The header rows: as `badTag_encodedAs`, of the header's bits. -/
theorem badHdr_encodedAs (hlen : lenOk len = true) (htag : tagOk b2 = true) (hhdr : hdrOk b0 b1 = false)
    (b3 b4 b5 : Byte) :
    EncodedAs (decodeWord len (frameWord b0 b1 b2 b3 b4 b5)) (frameWord b0 b1 b2 b3 b4 b5) := by
  cases h7 : b0.getLsbD 7 with
  | false =>
    have hb : 0b0#1 ++ b0.extractLsb' 0 7 = b0 := append_top_of_parts (n := 7) h7.symm
    rw [decodeWord_hdrB0Bit7 _ _ _ _ htag h7]
    exact ⟨by rw [Instr.wellFormed, hlen, htag]; rfl, by rw [encodeWord, hb, frameWord]⟩
  | true => cases h5 : b0.getLsbD 5 with
    | false =>
      have hb : b0.extractLsb' 6 2 ++ 0b0#1 ++ b0.extractLsb' 0 5 = b0 :=
        append_of_parts (m := 2) (n := 5) h5.symm
      rw [decodeWord_hdrB0Bit5 _ _ _ _ htag h7 h5]
      constructor
      · rw [Instr.wellFormed, hb]
        simp only [hlen, htag, hdr0_tests, h7, Bool.and_self]
      · rw [encodeWord, hb, frameWord]
    | true => cases h4 : b0.getLsbD 4 with
      | false =>
        have hb : b0.extractLsb' 5 3 ++ 0b0#1 ++ b0.extractLsb' 0 4 = b0 :=
          append_of_parts (m := 3) (n := 4) h4.symm
        rw [decodeWord_hdrB0Bit4 _ _ _ _ htag h7 h5 h4]
        constructor
        · rw [Instr.wellFormed, hb]
          simp only [hlen, htag, hdr0_tests, h7, h5, Bool.and_self]
        · rw [encodeWord, hb, frameWord]
      | true => cases h1 : b0.getLsbD 1 with
        | false =>
          have hb : b0.extractLsb' 2 6 ++ 0b0#1 ++ b0.extractLsb' 0 1 = b0 :=
            append_of_parts (m := 6) (n := 1) h1.symm
          rw [decodeWord_hdrB0Bit1 _ _ _ _ htag h7 h5 h4 h1]
          constructor
          · rw [Instr.wellFormed, hb]
            simp only [hlen, htag, hdr0_tests, h7, h5, h4, Bool.and_self]
          · rw [encodeWord, hb, frameWord]
        | true =>
          have h0 : matchOnes b0 Config.hdr0Ones = true := by
            simp only [hdr0_tests, h7, h5, h4, h1, Bool.and_self]
          have hb1 : b1.getLsbD 7 = false := by
            simpa only [hdrOk, h0, hdr1_tests, Bool.true_and] using hhdr
          have hb : 0b0#1 ++ b1.extractLsb' 0 7 = b1 := append_top_of_parts (n := 7) hb1.symm
          rw [decodeWord_hdrB1Bit7 _ _ _ _ htag h0 hb1]
          exact ⟨by rw [Instr.wellFormed, hlen, htag, h0]; rfl, by rw [encodeWord_hdrB1Bit7, hb]⟩

/-- The rows of a valid frame, by the selector bits S2, S1 and S0 (30_encoding.md R46). -/
theorem valid_encodedAs (hlen : lenOk len = true) (htag : tagOk b2 = true) (hhdr : hdrOk b0 b1 = true)
    (b3 b4 b5 : Byte) :
    EncodedAs (decodeWord len (frameWord b0 b1 b2 b3 b4 b5)) (frameWord b0 b1 b2 b3 b4 b5) := by
  obtain ⟨herr, hokA, hokB, -⟩ := selector_tests b2
  obtain ⟨h4A, h52, h5E⟩ := overrun_byte2 b2 htag
  cases h4 : b2.getLsbD 4 with
  | false => cases h3 : b2.getLsbD 3 with
    | false => cases h2 : b2.getLsbD 2 with
      | false =>
        rw [htag, h4, h3, h2] at hokA
        have hb2 := pattern_or_clearBits (by decide) hokA
        rw [decodeWord_readingA _ _ _ _ hhdr hokA]
        exact ⟨by simp [Instr.wellFormed, byte2FreeOk, hlen],
          by rw [encodeWord, validWord_headerFree hhdr, hb2, clearBits_or_and]⟩
      | true =>
        rw [htag, h4, h3, h2] at hokB
        have hb2 := pattern_or_clearBits (by decide) hokB
        rw [decodeWord_readingB _ _ _ _ hhdr hokB]
        exact ⟨by simp [Instr.wellFormed, byte2FreeOk, hlen],
          by rw [encodeWord, validWord_headerFree hhdr, hb2, clearBits_or_and]⟩
    | true =>
      rw [decodeWord_overrun4A _ _ _ _ hhdr htag h4 h3]
      exact ⟨by simp [Instr.wellFormed, hlen],
        by rw [encodeWord, validWord_headerFree hhdr, overrunRest_frameWord, h4A h4 h3]⟩
  | true => cases h3 : b2.getLsbD 3 with
    | false =>
      rw [decodeWord_overrun52 _ _ _ _ hhdr htag h4 h3]
      exact ⟨by simp [Instr.wellFormed, hlen],
        by rw [encodeWord, validWord_headerFree hhdr, overrunRest_frameWord, h52 h4 h3]⟩
    | true => cases h2 : b2.getLsbD 2 with
      | false =>
        rw [htag, h4, h3, h2] at herr
        have hb2 := pattern_or_clearBits (by decide) herr
        rw [decodeWord_errorFrame _ _ _ _ hhdr herr]
        exact ⟨by simp [Instr.wellFormed, byte2FreeOk, hlen],
          by rw [encodeWord, validWord_headerFree hhdr, hb2, clearBits_or_and]⟩
      | true =>
        rw [decodeWord_overrun5E _ _ _ _ hhdr htag h4 h3 h2]
        exact ⟨by simp [Instr.wellFormed, hlen],
          by rw [encodeWord, validWord_headerFree hhdr, overrunRest_frameWord, h5E h4 h3 h2]⟩

end Decoded

/-- The decoder makes a well-formed instruction of every frame word, and the encoder gives the word back. -/
theorem encodedAs_decodeWord {len : Nat} (hlen : lenOk len = true) (w : FrameWord) :
    EncodedAs (decodeWord len w) w := by
  obtain ⟨b0, b1, b2, b3, b4, b5, rfl⟩ := exists_frameWord w
  cases htag : tagOk b2 with
  | false => exact badTag_encodedAs hlen htag ..
  | true => cases hhdr : hdrOk b0 b1 with
    | false => exact badHdr_encodedAs hlen htag hhdr ..
    | true => exact valid_encodedAs hlen htag hhdr ..

/-- Every row's instruction carries the length of the frame. -/
theorem len_build : ∀ row ∈ classRows, ∀ len w, (row.build len w).len = len := by
  simp only [classRows, tagRows, hdrRows, overrunRows, List.cons_append, List.nil_append, List.forall_mem_cons]
  exact ⟨fun _ _ => rfl, fun _ _ => rfl, fun _ _ => rfl, fun _ _ => rfl, fun _ _ => rfl, fun _ _ => rfl,
    fun _ _ => rfl, fun _ _ => rfl, fun _ _ => rfl, fun _ _ => rfl, fun _ _ => rfl, fun _ _ => rfl,
    fun _ _ => rfl, fun _ _ => rfl, fun _ _ => rfl, by simp⟩

/-- A request of six bytes or more is the encoding of any instruction of its length and frame word. -/
theorem encode_eq_of_word {r : Request} {i : Instr} {w : FrameWord} (hwf : r.wf) (hbytes : r.bytes = frameBytes w)
    (hlen : i.len = r.len) (hword : encodeWord i = some w) : encode i = r := by
  have hmem : r.mem = Memory.load 0 ((encodeBytes i).map some) := by
    simp only [encodeBytes, hword]
    rw [← hbytes]
    exact Request.mem_of_wf hwf
  rw [encode, hlen, ← hmem]

/-- Settles O28: a short request decodes by its length alone; any other is its frame word, and every row's free bits
are pulled out where the encoder puts them. -/
theorem encodeAfterDecode : Obligations.EncodeAfterDecode := by
  intro r hwf
  rcases Nat.lt_or_ge r.len 6 with hshort | hlong
  · have hlen : lenOk r.len = false := decide_eq_false (Nat.not_le.mpr hshort)
    exact ⟨.unrecognizedShort r.len, decode_short hshort, by rw [Instr.wellFormed, hlen]; rfl, rfl,
      fun h => absurd hshort (Nat.not_lt.mpr h)⟩
  · obtain ⟨b0, b1, b2, b3, b4, b5, hbytes, hword⟩ := Request.six_bytes hwf hlong
    have henc := encodedAs_decodeWord (decide_eq_true hlong) (frameWord b0 b1 b2 b3 b4 b5)
    have hlen := len_build _ (rowOf_mem (frameWord b0 b1 b2 b3 b4 b5)) r.len (frameWord b0 b1 b2 b3 b4 b5)
    exact ⟨_, decode_of_requestWord hlong hword, henc.wellFormed, hlen,
      fun _ => encode_eq_of_word hwf (by rw [hbytes, frameBytes_frameWord]) hlen henc.word⟩

/-! ### The decoder gives an encoded instruction back, row by row -/

/-- The decoder reads this instruction from the frame word the encoder makes of it. -/
def DecodesBack (i : Instr) : Prop := ∀ w, EncodedAs i w → decodeWord i.len w = i

namespace DecodesBack
variable {len : Nat} {b0 b1 b2 b3 b4 b5 : Byte}

theorem unrecognizedTagB2Bit7 {lo : BitVec 7} : DecodesBack (.unrecognizedTagB2Bit7 len b0 b1 lo b3 b4 b5) := by
  rintro w ⟨-, hword⟩
  obtain ⟨b2, hb, hbit, hlo⟩ := exists_append_top 0b1#1 lo
  rw [encodeWord_tagB2Bit7, hb] at hword
  cases hword
  rw [decodeWord_tagB2Bit7 _ _ _ _ hbit, hlo, Instr.len]

theorem unrecognizedTagB2Bit6 {hi : BitVec 1} {lo : BitVec 6} :
    DecodesBack (.unrecognizedTagB2Bit6 len b0 b1 hi lo b3 b4 b5) := by
  rintro w ⟨hwf, hword⟩
  obtain ⟨b2, hb, hhi, hbit, hlo⟩ := exists_append hi 0b0#1 lo
  rw [encodeWord_tagB2Bit6, hb] at hword
  cases hword
  rw [Instr.wellFormed, hb] at hwf
  simp only [tag_tests, Bool.and_eq_true, Bool.not_eq_true'] at hwf
  obtain ⟨-, h7⟩ := hwf
  rw [decodeWord_tagB2Bit6 _ _ _ _ h7 hbit, hhi, hlo, Instr.len]

theorem unrecognizedTagB2Bit5 {hi : BitVec 2} {lo : BitVec 5} :
    DecodesBack (.unrecognizedTagB2Bit5 len b0 b1 hi lo b3 b4 b5) := by
  rintro w ⟨hwf, hword⟩
  obtain ⟨b2, hb, hhi, hbit, hlo⟩ := exists_append hi 0b1#1 lo
  rw [encodeWord_tagB2Bit5, hb] at hword
  cases hword
  rw [Instr.wellFormed, hb] at hwf
  simp only [tag_tests, Bool.and_eq_true, Bool.not_eq_true'] at hwf
  obtain ⟨⟨-, h7⟩, h6⟩ := hwf
  rw [decodeWord_tagB2Bit5 _ _ _ _ h7 h6 hbit, hhi, hlo, Instr.len]

theorem unrecognizedTagB2Bit1 {hi : BitVec 6} {lo : BitVec 1} :
    DecodesBack (.unrecognizedTagB2Bit1 len b0 b1 hi lo b3 b4 b5) := by
  rintro w ⟨hwf, hword⟩
  obtain ⟨b2, hb, hhi, hbit, hlo⟩ := exists_append hi 0b0#1 lo
  rw [encodeWord_tagB2Bit1, hb] at hword
  cases hword
  rw [Instr.wellFormed, hb] at hwf
  simp only [tag_tests, Bool.and_eq_true, Bool.not_eq_true'] at hwf
  obtain ⟨⟨-, h7, h5⟩, h6⟩ := hwf
  rw [decodeWord_tagB2Bit1 _ _ _ _ h7 h6 h5 hbit, hhi, hlo, Instr.len]

theorem unrecognizedHdrB0Bit7 {lo : BitVec 7} : DecodesBack (.unrecognizedHdrB0Bit7 len lo b1 b2 b3 b4 b5) := by
  rintro w ⟨hwf, hword⟩
  obtain ⟨b0, hb, hbit, hlo⟩ := exists_append_top 0b0#1 lo
  rw [encodeWord, hb, ← frameWord] at hword
  cases hword
  rw [Instr.wellFormed, Bool.and_eq_true] at hwf
  obtain ⟨-, htag⟩ := hwf
  rw [decodeWord_hdrB0Bit7 _ _ _ _ htag hbit, hlo, Instr.len]

theorem unrecognizedHdrB0Bit5 {hi : BitVec 2} {lo : BitVec 5} :
    DecodesBack (.unrecognizedHdrB0Bit5 len hi lo b1 b2 b3 b4 b5) := by
  rintro w ⟨hwf, hword⟩
  obtain ⟨b0, hb, hhi, hbit, hlo⟩ := exists_append hi 0b0#1 lo
  rw [encodeWord, hb, ← frameWord] at hword
  cases hword
  rw [Instr.wellFormed, hb] at hwf
  simp only [hdr0_tests, Bool.and_eq_true] at hwf
  obtain ⟨⟨-, htag⟩, h7⟩ := hwf
  rw [decodeWord_hdrB0Bit5 _ _ _ _ htag h7 hbit, hhi, hlo, Instr.len]

theorem unrecognizedHdrB0Bit4 {hi : BitVec 3} {lo : BitVec 4} :
    DecodesBack (.unrecognizedHdrB0Bit4 len hi lo b1 b2 b3 b4 b5) := by
  rintro w ⟨hwf, hword⟩
  obtain ⟨b0, hb, hhi, hbit, hlo⟩ := exists_append hi 0b0#1 lo
  rw [encodeWord, hb, ← frameWord] at hword
  cases hword
  rw [Instr.wellFormed, hb] at hwf
  simp only [hdr0_tests, Bool.and_eq_true] at hwf
  obtain ⟨⟨-, htag⟩, h7, h5⟩ := hwf
  rw [decodeWord_hdrB0Bit4 _ _ _ _ htag h7 h5 hbit, hhi, hlo, Instr.len]

theorem unrecognizedHdrB0Bit1 {hi : BitVec 6} {lo : BitVec 1} :
    DecodesBack (.unrecognizedHdrB0Bit1 len hi lo b1 b2 b3 b4 b5) := by
  rintro w ⟨hwf, hword⟩
  obtain ⟨b0, hb, hhi, hbit, hlo⟩ := exists_append hi 0b0#1 lo
  rw [encodeWord, hb, ← frameWord] at hword
  cases hword
  rw [Instr.wellFormed, hb] at hwf
  simp only [hdr0_tests, Bool.and_eq_true] at hwf
  obtain ⟨⟨-, htag⟩, ⟨h7, h5⟩, h4⟩ := hwf
  rw [decodeWord_hdrB0Bit1 _ _ _ _ htag h7 h5 h4 hbit, hhi, hlo, Instr.len]

theorem unrecognizedHdrB1Bit7 {lo : BitVec 7} : DecodesBack (.unrecognizedHdrB1Bit7 len b0 lo b2 b3 b4 b5) := by
  rintro w ⟨hwf, hword⟩
  obtain ⟨b1, hb, hbit, hlo⟩ := exists_append_top 0b0#1 lo
  rw [encodeWord_hdrB1Bit7, hb] at hword
  cases hword
  rw [Instr.wellFormed, Bool.and_eq_true, Bool.and_eq_true] at hwf
  obtain ⟨⟨-, htag⟩, h0⟩ := hwf
  rw [decodeWord_hdrB1Bit7 _ _ _ _ htag h0 hbit, hlo, Instr.len]

variable {hdr : HeaderFree} {rest hi lo : Byte} {s0 : BitVec 1}

theorem errorFrame : DecodesBack (.errorFrame len hdr b2 b3 rest hi lo) := by
  rintro w ⟨hwf, hword⟩
  cases hword
  simp only [Instr.wellFormed, Bool.and_eq_true] at hwf
  obtain ⟨⟨⟨-, hhdr⟩, hb2⟩, hb4⟩ := hwf
  obtain ⟨hpattern, hfree⟩ := pattern_merge (by decide) hb2
  obtain ⟨hrest, hhi⟩ := byte4_merge hb4
  rw [validWord, decodeWord_errorFrame _ _ _ _ (hdrOk_or ..) hpattern, ← validWord, headerFree_validWord hhdr, hfree,
    hrest, hhi, Instr.len]

theorem readingA : DecodesBack (.readingA len hdr b2 b3 rest hi lo) := by
  rintro w ⟨hwf, hword⟩
  cases hword
  simp only [Instr.wellFormed, Bool.and_eq_true] at hwf
  obtain ⟨⟨⟨-, hhdr⟩, hb2⟩, hb4⟩ := hwf
  obtain ⟨hpattern, hfree⟩ := pattern_merge (by decide) hb2
  obtain ⟨hrest, hhi⟩ := byte4_merge hb4
  rw [validWord, decodeWord_readingA _ _ _ _ (hdrOk_or ..) hpattern, ← validWord, headerFree_validWord hhdr, hfree,
    hrest, hhi, Instr.len]

theorem readingB : DecodesBack (.readingB len hdr b2 b3 rest hi lo) := by
  rintro w ⟨hwf, hword⟩
  cases hword
  simp only [Instr.wellFormed, Bool.and_eq_true] at hwf
  obtain ⟨⟨⟨-, hhdr⟩, hb2⟩, hb4⟩ := hwf
  obtain ⟨hpattern, hfree⟩ := pattern_merge (by decide) hb2
  obtain ⟨hrest, hhi⟩ := byte4_merge hb4
  rw [validWord, decodeWord_readingB _ _ _ _ (hdrOk_or ..) hpattern, ← validWord, headerFree_validWord hhdr, hfree,
    hrest, hhi, Instr.len]

theorem overrun4A : DecodesBack (.overrun4A len hdr s0 rest b3 b4 b5) := by
  rintro w ⟨hwf, hword⟩
  cases hword
  simp only [Instr.wellFormed, Bool.and_eq_true] at hwf
  obtain ⟨⟨-, hhdr⟩, hb2⟩ := hwf
  obtain ⟨htag, h4, h3, hs0, hrest⟩ := overrun4A_merge s0 rest hb2
  rw [validWord, decodeWord_overrun4A _ _ _ _ (hdrOk_or ..) htag h4 h3, overrunRest_frameWord, ← validWord,
    headerFree_validWord hhdr, hs0, hrest, Instr.len]

theorem overrun52 : DecodesBack (.overrun52 len hdr s0 rest b3 b4 b5) := by
  rintro w ⟨hwf, hword⟩
  cases hword
  simp only [Instr.wellFormed, Bool.and_eq_true] at hwf
  obtain ⟨⟨-, hhdr⟩, hb2⟩ := hwf
  obtain ⟨htag, h4, h3, hs0, hrest⟩ := overrun52_merge s0 rest hb2
  rw [validWord, decodeWord_overrun52 _ _ _ _ (hdrOk_or ..) htag h4 h3, overrunRest_frameWord, ← validWord,
    headerFree_validWord hhdr, hs0, hrest, Instr.len]

theorem overrun5E : DecodesBack (.overrun5E len hdr rest b3 b4 b5) := by
  rintro w ⟨hwf, hword⟩
  cases hword
  simp only [Instr.wellFormed, Bool.and_eq_true] at hwf
  obtain ⟨⟨-, hhdr⟩, hb2⟩ := hwf
  obtain ⟨htag, h4, h3, h2, hrest⟩ := overrun5E_merge rest hb2
  rw [validWord, decodeWord_overrun5E _ _ _ _ (hdrOk_or ..) htag h4 h3 h2, overrunRest_frameWord, ← validWord,
    headerFree_validWord hhdr, hrest, Instr.len]

end DecodesBack

theorem decodesBack (i : Instr) : DecodesBack i := by
  cases i with
  | unrecognizedShort len => exact fun w h => absurd h.word (by simp [encodeWord])
  | unrecognizedTagB2Bit7 => exact DecodesBack.unrecognizedTagB2Bit7
  | unrecognizedTagB2Bit6 => exact DecodesBack.unrecognizedTagB2Bit6
  | unrecognizedTagB2Bit5 => exact DecodesBack.unrecognizedTagB2Bit5
  | unrecognizedTagB2Bit1 => exact DecodesBack.unrecognizedTagB2Bit1
  | unrecognizedHdrB0Bit7 => exact DecodesBack.unrecognizedHdrB0Bit7
  | unrecognizedHdrB0Bit5 => exact DecodesBack.unrecognizedHdrB0Bit5
  | unrecognizedHdrB0Bit4 => exact DecodesBack.unrecognizedHdrB0Bit4
  | unrecognizedHdrB0Bit1 => exact DecodesBack.unrecognizedHdrB0Bit1
  | unrecognizedHdrB1Bit7 => exact DecodesBack.unrecognizedHdrB1Bit7
  | errorFrame => exact DecodesBack.errorFrame
  | readingA => exact DecodesBack.readingA
  | readingB => exact DecodesBack.readingB
  | overrun4A => exact DecodesBack.overrun4A
  | overrun52 => exact DecodesBack.overrun52
  | overrun5E => exact DecodesBack.overrun5E

/-- The encoder's request of a well-formed instruction keeps the transport's contract. -/
theorem encode_wf {i : Instr} (h : i.wellFormed = true) : (encode i).wf := by
  cases hword : encodeWord i with
  | some w => exact (Laws.EncodedRequest.of_word hword h).1
  | none =>
    cases i with
    | unrecognizedShort len => exact (Laws.EncodedRequest.unrecognizedShort len h).1
    | _ => cases hword

/-- The frame word of an instruction's request is the one the encoder made. -/
theorem requestWord_encode {i : Instr} {w : FrameWord} (h : EncodedAs i w) : requestWord (encode i) = .ok w := by
  have hlen : lenOk i.len = true := Laws.EncodedRequest.lenOk_of_word h.word h.wellFormed
  obtain ⟨b0, b1, b2, b3, b4, b5, hbytes, hw⟩ := Request.six_bytes (encode_wf h.wellFormed) (of_decide_eq_true hlen)
  have hframe : frameBytes w = [b0, b1, b2, b3, b4, b5] := by
    rw [← hbytes, Request.bytes, encode, Memory.load_values, encodeBytes, h.word]
  obtain ⟨c0, c1, c2, c3, c4, c5, rfl⟩ := exists_frameWord w
  rw [frameBytes_frameWord] at hframe
  cases hframe
  exact hw

/-- Settles O27: a short frame decodes by its length alone; any other instruction's request has the frame word the
encoder made, and every row's decoder equation finds the row's fixed bits in it and pulls its free bits out. -/
theorem decodeAfterEncode : Obligations.DecodeAfterEncode := by
  intro i hwf
  refine ⟨encode_wf hwf, ?_⟩
  cases hword : encodeWord i with
  | some w =>
    have henc : EncodedAs i w := ⟨hwf, hword⟩
    have hlen : lenOk i.len = true := Laws.EncodedRequest.lenOk_of_word hword hwf
    rw [decode_of_requestWord (r := encode i) (of_decide_eq_true hlen) (requestWord_encode henc)]
    exact congrArg _ (decodesBack i w henc)
  | none =>
    cases i with
    | unrecognizedShort len =>
      have hlen : lenOk len = false := by simpa [Instr.wellFormed] using hwf
      exact decode_short (Nat.not_le.mp (of_decide_eq_false hlen))
    | _ => cases hword

end Sys2Proof.Machine

namespace Sys2Proof.Machine

open Sys2Proof

/-! SUPPORT. The outcome of every value of byte 2 (30_encoding.md R50), and words of the opcode table: what they
decode to, and the step that runs one (R51). -/

/-! ### The values of byte 2 -/

theorem isErr_iff_mem : ∀ b : Byte, isErr b = true ↔ b ∈ [0x5A#8, 0x5B#8] := by decide

theorem isOk_iff_mem : ∀ b : Byte, isOk b = true ↔ b ∈ [0x42#8, 0x43#8, 0x46#8, 0x47#8] := by decide

/-- The values that pass the tag and match no pattern (42_payload_demux.md R73). -/
theorem overrun_iff_mem : ∀ b : Byte, (tagOk b = true ∧ isErr b = false ∧ isOk b = false) ↔
    b ∈ [0x4A#8, 0x4B#8, 0x4E#8, 0x4F#8, 0x52#8, 0x53#8, 0x56#8, 0x57#8, 0x5E#8, 0x5F#8] := by decide

/-- A reading passes the tag and is no error (42_payload_demux.md R72, R74). -/
theorem isOk_apart : ∀ b : Byte, isOk b = true → tagOk b = true ∧ isErr b = false := by decide

theorem demux_of_isOk {b2 : Byte} (hok : isOk b2 = true) (b3 b4 b5 : Byte) :
    demux b2 b3 b4 b5 = Tagged.ofFields (airFactor b2 b3) (lambdaField b4 b5) := by
  obtain ⟨-, herr⟩ := isOk_apart b2 hok
  simp [demux, herr, hok]

/-- Bit 0 of byte 2 sets bit 7 of the air factor (43_field_extract.md R76). -/
theorem airFactor_eq_ite (b2 b3 : Byte) : airFactor b2 b3 = if b2.getLsbD 0 then b3 ||| 0x80#8 else b3 := by
  have hhi : ∀ b : Byte, (b &&& Config.afHiMask) <<< Config.afHiShift = if b.getLsbD 0 then 0x80#8 else 0#8 := by
    decide
  rw [airFactor, hhi]
  split
  · exact BitVec.or_comm ..
  · exact BitVec.zero_or

/-- Settles O18: each listed value passes exactly one pattern or none after the tag, and all others fail the tag. -/
theorem classOfEveryByte2 : Obligations.ClassOfEveryByte2 := by
  intro b0 b1 b2 b3 b4 b5 rest hhdr
  refine ⟨_, responseOf_ofFrame_cons b0 b1 b2 b3 b4 b5 rest, ?_⟩
  intro readings errors overruns
  refine ⟨fun hmem => ?reading, fun hmem => ?error, fun hmem => ?overrun, fun hmem => ?unrecognized⟩
  case reading =>
    have hok := (isOk_iff_mem b2).mpr hmem
    obtain ⟨htag, -⟩ := isOk_apart b2 hok
    rw [convertBytes_of_valid htag hhdr, demux_of_isOk hok, ← airFactor_eq_ite]
    exact ⟨rfl, rfl, rfl⟩
  case error =>
    have herr := (isErr_iff_mem b2).mpr hmem
    rw [convertBytes_of_valid (tagOk_of_isErr b2 herr) hhdr, demux_of_isErr herr]
    exact ⟨rfl, rfl⟩
  case overrun =>
    obtain ⟨htag, herr, hok⟩ := (overrun_iff_mem b2).mpr hmem
    rw [convertBytes_of_valid htag hhdr, demux_of_overrun herr hok]
    exact ⟨rfl, rfl⟩
  case unrecognized =>
    simp only [List.mem_append, not_or] at hmem
    obtain ⟨⟨hreading, herror⟩, hoverrun⟩ := hmem
    have hok := Bool.eq_false_iff.mpr (mt (isOk_iff_mem b2).mp hreading)
    have herr := Bool.eq_false_iff.mpr (mt (isErr_iff_mem b2).mp herror)
    have htag : tagOk b2 = false :=
      Bool.eq_false_iff.mpr fun h => hoverrun ((overrun_iff_mem b2).mp ⟨h, herr, hok⟩)
    rw [convertBytes_of_badTag htag]
    exact ⟨rfl, rfl⟩

/-! ### A table word -/

/-- Settles O29: closed words, one a family. -/
theorem sampleWordsDecode : Obligations.SampleWordsDecode :=
  ⟨by decide, by decide, by decide, by decide, by decide, by decide⟩

section PlacedWord
variable (s : State) (nbits w : Nat)

@[simp] theorem State.withFetchWord_nextInputs : (s.withFetchWord nbits w).nextInputs = InPorts.idle := rfl

/-- Nothing is presented in the cycle of the placed word. -/
theorem State.withFetchWord_accepted : (s.withFetchWord nbits w).accepted = none := by
  simp [State.accepted]

/-- The placed word's request is the oldest in flight in its cycle, and due. -/
theorem State.withFetchWord_nextPending : (s.withFetchWord nbits w).nextPending =
    { req := tableRequest nbits w, wait := 0 } :: s.pending.map fun p => { p with wait := p.wait - 1 } := by
  simp [State.nextPending, State.withFetchWord_accepted]

end PlacedWord

/-- Settles O32: a table word's request is a frame's, so it keeps the contract and decodes, and it is due in the coming
cycle. -/
theorem placedWordRunsNext : Obligations.PlacedWordRunsNext := by
  intro s nbits w
  obtain ⟨i, hi, hexec⟩ := Request.decode_answers (Request.ofFrame_wf (tableFrame nbits w))
  obtain ⟨hresponse, -⟩ := responseOf_of_exec hi hexec
  have hstep := step_of_decode (s := s.withFetchWord nbits w) rfl (s.withFetchWord_nextPending nbits w) rfl hi
  have hnext := hstep.trans (hexec _)
  refine ⟨i, _, by rw [decodeTableWord, tableRequest, hi], hnext, hstep, ?_, ?_⟩
  · rw [State.answer_out, tableRequest, hresponse]
  · rw [State.answer_out]
    exact Option.some_ne_none _

end Sys2Proof.Machine

namespace Sys2Proof.Machine

open Sys2Proof

/-! SUPPORT. The two tests of the BitMatcher, bit by bit and at their corner masks (40_bit_matcher.md R59, R60), and
the block's checks as mask-and-match tests (R62). -/

/-! ### The two tests of a byte under a mask -/

section Tests
variable {b m : Byte}

theorem matchOnes_iff : matchOnes b m = true ↔ b &&& m = m := by rw [matchOnes, beq_iff_eq]

theorem matchZeroes_iff : matchZeroes b m = true ↔ b &&& m = 0#8 := beq_iff_eq

/-- The ones test looks at the bits of the mask and at no other (40_bit_matcher.md R59). -/
theorem matchOnes_iff_bits : matchOnes b m = true ↔ ∀ k, m.getLsbD k = true → b.getLsbD k = true := by
  rw [matchOnes_iff]
  constructor
  · intro h k hk
    rw [← h, BitVec.getLsbD_and, Bool.and_eq_true] at hk
    exact hk.1
  · intro h
    refine BitVec.eq_of_getLsbD_eq fun k _ => ?_
    rw [BitVec.getLsbD_and]
    exact Bool.and_eq_right_iff_imp.mpr (h k)

/-- The zeroes test looks at the bits of the mask and at no other (40_bit_matcher.md R60). -/
theorem matchZeroes_iff_bits : matchZeroes b m = true ↔ ∀ k, m.getLsbD k = true → b.getLsbD k = false := by
  rw [matchZeroes_iff]
  constructor
  · intro h k hk
    have hbit := congrArg (BitVec.getLsbD · k) h
    simpa [hk] using hbit
  · intro h
    refine BitVec.eq_of_getLsbD_eq fun k _ => ?_
    rw [BitVec.getLsbD_and, BitVec.getLsbD_zero, Bool.and_eq_false_imp]
    intro hb
    by_contra hm
    exact Bool.false_ne_true ((h k (Bool.eq_true_of_not_eq_false hm)).symm.trans hb)

theorem and_fullMask : b &&& 0xFF#8 = b := BitVec.and_allOnes

theorem matchOnes_fullMask : matchOnes b 0xFF#8 = true ↔ b = 0xFF#8 := by rw [matchOnes_iff, and_fullMask]

theorem matchZeroes_fullMask : matchZeroes b 0xFF#8 = true ↔ b = 0#8 := by rw [matchZeroes_iff, and_fullMask]

theorem mask_eq_zero_of_both (hones : matchOnes b m = true) (hzeroes : matchZeroes b m = true) : m = 0#8 :=
  (matchOnes_iff.mp hones).symm.trans (matchZeroes_iff.mp hzeroes)

end Tests

/-- Settles O1: the tests as equations, then bit by bit, then their corner masks and the two examples. -/
theorem bitMatcherTestsEachMaskedBit : Obligations.BitMatcherTestsEachMaskedBit :=
  ⟨fun _ _ => ⟨matchOnes_iff, matchZeroes_iff⟩, fun _ _ => matchOnes_iff_bits, fun _ _ => matchZeroes_iff_bits,
    fun b => ⟨matchOnes_zero b, matchZeroes_zero b⟩, fun _ => ⟨matchOnes_fullMask, matchZeroes_fullMask⟩,
    fun _ _ => mask_eq_zero_of_both, by decide, by decide⟩

/-! ### The checks as mask-and-match tests -/

section MaskAndMatch
variable {b0 b1 b2 : Byte}

theorem tagMasks_apart : Config.tagOnes &&& Config.tagZeroes = 0#8 := by decide
theorem errMasks_apart : Config.errOnes &&& Config.errZeroes = 0#8 := by decide
theorem okAMasks_apart : Config.okAOnes &&& Config.okAZeroes = 0#8 := by decide
theorem okBMasks_apart : Config.okBOnes &&& Config.okBZeroes = 0#8 := by decide

theorem tagOk_iff_maskMatch : tagOk b2 = true ↔ b2 &&& 0xE2#8 = 0x42#8 := by
  rw [tagOk, Bool.and_eq_true]
  exact matchOnes_and_matchZeroes_iff tagMasks_apart

theorem isErr_iff_maskMatch : isErr b2 = true ↔ b2 &&& 0xFE#8 = 0x5A#8 := by
  rw [isErr, Bool.and_eq_true]
  exact matchOnes_and_matchZeroes_iff errMasks_apart

theorem isOkA_iff_maskMatch : isOkA b2 = true ↔ b2 &&& 0xFE#8 = 0x42#8 := by
  rw [isOkA, Bool.and_eq_true]
  exact matchOnes_and_matchZeroes_iff okAMasks_apart

theorem isOkB_iff_maskMatch : isOkB b2 = true ↔ b2 &&& 0xFE#8 = 0x46#8 := by
  rw [isOkB, Bool.and_eq_true]
  exact matchOnes_and_matchZeroes_iff okBMasks_apart

/-- The header has no zeroes-mask: each of its checks matches its mask itself (41_frame_validation.md R65). -/
theorem hdrOk_iff_maskMatch : hdrOk b0 b1 = true ↔ b0 &&& 0xB2#8 = 0xB2#8 ∧ b1 &&& 0x80#8 = 0x80#8 := by
  rw [hdrOk, Bool.and_eq_true]
  exact and_congr matchOnes_iff matchOnes_iff

end MaskAndMatch

/-- Settles O2: the law of two masks apart, which the pair of masks of every check meets. -/
theorem maskPairIsOneMaskAndMatch : Obligations.MaskPairIsOneMaskAndMatch :=
  ⟨fun _ _ _ => matchOnes_and_matchZeroes_iff, tagMasks_apart, errMasks_apart, okAMasks_apart, okBMasks_apart,
    fun _ => ⟨rfl, rfl, rfl, rfl⟩, fun _ _ => rfl,
    fun _ => ⟨tagOk_iff_maskMatch, isErr_iff_maskMatch, isOkA_iff_maskMatch, isOkB_iff_maskMatch⟩,
    fun _ _ => hdrOk_iff_maskMatch⟩

end Sys2Proof.Machine

namespace Sys2Proof.Machine

open Sys2Proof

/-! SUPPORT. The frame validator: what a malformed frame answers, and the signals of a frame up to the check that
fails (41_frame_validation.md R66, R67). -/

/-! ### The malformed outcome -/

/-- The port form of a malformed outcome carries its cause and nothing else (44_result.md R87). -/
theorem Tagged.project_unrecognized (cause : Cause) :
    (Tagged.unrecognized cause).project = malformedResponse cause.code := rfl

/-- The MALFORMED outcome as one update of the state: only the ports and the signals are written. -/
theorem State.answerMalformed_eq (cause : Cause) (s : State) : s.answerMalformed cause =
    { s with sig := Signals.malformed cause, out := some (malformedResponse cause.code) } := by
  rw [State.answerMalformed, State.answer, Tagged.project_unrecognized]

/-- Settles O12: each row is the MALFORMED outcome of its cause, whatever operands it carries. -/
theorem malformedFramesAnswerTheirCause : Obligations.MalformedFramesAnswerTheirCause := by
  intro s
  have answers (cause : Cause) : (.next (s.answerMalformed cause) : Host.Outcome State Fault Refusal) =
      .next { s with sig := Signals.malformed cause, out := some (malformedResponse cause.code) } :=
    congrArg Host.Outcome.next (s.answerMalformed_eq cause)
  exact ⟨fun _ => answers .short,
    fun _ _ _ _ _ _ _ => answers .badTag, fun _ _ _ _ _ _ _ _ => answers .badTag,
    fun _ _ _ _ _ _ _ _ => answers .badTag, fun _ _ _ _ _ _ _ _ => answers .badTag,
    fun _ _ _ _ _ _ _ => answers .badHdr, fun _ _ _ _ _ _ _ _ => answers .badHdr,
    fun _ _ _ _ _ _ _ _ => answers .badHdr, fun _ _ _ _ _ _ _ _ => answers .badHdr,
    fun _ _ _ _ _ _ _ => answers .badHdr⟩

/-! ### The signals of a frame -/

section FrameSignals
variable {b0 b1 b2 : Byte}

/-- The decode of a frame of six bytes or more reaches the signals of its first six. -/
theorem signalsOf_ofFrame_cons (b0 b1 b2 b3 b4 b5 : Byte) (rest : List Byte) :
    signalsOf (Request.ofFrame (b0 :: b1 :: b2 :: b3 :: b4 :: b5 :: rest)) =
      some (convertSignals [b0, b1, b2, b3, b4, b5]) := by
  have hwf := Request.ofFrame_wf (b0 :: b1 :: b2 :: b3 :: b4 :: b5 :: rest)
  exact (Request.responseOf_of_wf hwf).2.trans (congrArg some (convertLen_of_wf hwf).2)

theorem convertSignals_of_badTag (htag : tagOk b2 = false) (b0 b1 b3 b4 b5 : Byte) :
    convertSignals [b0, b1, b2, b3, b4, b5] = Signals.malformed .badTag := by
  rw [convertSignals, (convertLen_cons rfl []).2, htag]
  rfl

theorem convertSignals_of_badHdr (htag : tagOk b2 = true) (hhdr : hdrOk b0 b1 = false) (b3 b4 b5 : Byte) :
    convertSignals [b0, b1, b2, b3, b4, b5] = Signals.malformed .badHdr := by
  rw [convertSignals, (convertLen_cons rfl []).2, htag, hhdr]
  rfl

end FrameSignals

/-- Settles O16: the length, the tag and the header are checked in this order; the first to fail decides response and
signals, and where none does the demultiplexer answers. -/
theorem validatorReportsFirstFailure : Obligations.ValidatorReportsFirstFailure := by
  refine ⟨fun frame hshort => responseOf_short (r := Request.ofFrame frame) hshort,
    fun b0 b1 b2 b3 b4 b5 rest => ?_⟩
  intro r
  have hresponse : responseOf r = some (convertBytes b0 b1 b2 b3 b4 b5).project :=
    responseOf_ofFrame_cons b0 b1 b2 b3 b4 b5 rest
  have hsignals : signalsOf r = some (convertSignals [b0, b1, b2, b3, b4, b5]) :=
    signalsOf_ofFrame_cons b0 b1 b2 b3 b4 b5 rest
  rw [hresponse, hsignals]
  refine ⟨fun htag => ?badTag, fun htag hhdr => ?badHdr, fun htag hhdr => ?valid⟩
  case badTag =>
    rw [convertBytes_of_badTag htag, convertSignals_of_badTag htag, Tagged.project_unrecognized]
    exact ⟨rfl, rfl⟩
  case badHdr =>
    rw [convertBytes_of_badHdr htag hhdr, convertSignals_of_badHdr htag hhdr, Tagged.project_unrecognized]
    exact ⟨rfl, rfl⟩
  case valid =>
    rw [convertBytes_of_valid htag hhdr]

end Sys2Proof.Machine

namespace Sys2Proof.Machine

open Sys2Proof

/-! SUPPORT. The payload demultiplexer: the order of its checks, and the outcomes as a partition of the requests and of
the values of byte 2 (42_payload_demux.md R74, R75). -/

/-! ### The order of the checks -/

/-- No byte matches the error pattern and an OK pattern, so the OK patterns may be tried first
(42_payload_demux.md R74). -/
theorem demux_eq_okFirst (b2 b3 b4 b5 : Byte) : demux b2 b3 b4 b5 =
    if isOk b2 then Tagged.ofFields (airFactor b2 b3) (lambdaField b4 b5)
    else if isErr b2 then .error (lambdaField b4 b5)
    else .overrun := by
  cases hok : isOk b2 with
  | true => exact demux_of_isOk hok b3 b4 b5
  | false => simp [demux, hok]

/-- Settles O17: a valid frame is answered by the demultiplexer, in either order of its checks. -/
theorem demultiplexerOrder : Obligations.DemultiplexerOrder := by
  refine ⟨fun b0 b1 b2 b3 b4 b5 rest htag hhdr => ?_, fun b2 => ⟨isErr_iff_mem b2, isOk_iff_mem b2⟩⟩
  intro r err ok error reading overrun
  have hresponse : responseOf r = some (demux b2 b3 b4 b5).project := by
    rw [← convertBytes_of_valid htag hhdr]
    exact responseOf_ofFrame_cons b0 b1 b2 b3 b4 b5 rest
  constructor
  · rw [hresponse, demux]
    simp only [apply_ite Tagged.project, apply_ite some]
    rfl
  · rw [hresponse, demux_eq_okFirst]
    simp only [apply_ite Tagged.project, apply_ite some]
    rfl

/-! ### The outcomes -/

/-- The class and cause codes of a response: a malformed one's cause is SHORT, BADTAG or BADHDR, any other's NONE
(10_state.md R23, R24). -/
theorem Tagged.project_codes (t : Tagged) :
    (t.project.cls = 0#2 ∧ (t.project.cause = 1#2 ∨ t.project.cause = 2#2 ∨ t.project.cause = 3#2)) ∨
      (t.project.cls = 2#2 ∧ t.project.cause = 0#2) ∨ (t.project.cls = 1#2 ∧ t.project.cause = 0#2) ∨
      (t.project.cls = 3#2 ∧ t.project.cause = 0#2) := by
  cases t with
  | unrecognized cause => cases cause <;> exact .inl ⟨rfl, by decide⟩
  | error => exact .inr (.inl ⟨rfl, rfl⟩)
  | reading => exact .inr (.inr (.inl ⟨rfl, rfl⟩))
  | overrun => exact .inr (.inr (.inr ⟨rfl, rfl⟩))

/-- The class and cause codes that a value of byte 2 gives a frame whose header passes, by the ordered checks. -/
def byte2Codes (b2 : Byte) : BitVec 2 × BitVec 2 :=
  if !tagOk b2 then (0#2, 2#2) else if isErr b2 then (2#2, 0#2) else if isOk b2 then (1#2, 0#2) else (3#2, 0#2)

/-- Once the header passes, class and cause are byte 2's alone (30_encoding.md R50). -/
theorem responseOf_codes {b0 b1 : Byte} (hhdr : hdrOk b0 b1 = true) (b2 b3 b4 b5 : Byte) (rest : List Byte) :
    (responseOf (Request.ofFrame (b0 :: b1 :: b2 :: b3 :: b4 :: b5 :: rest))).map (fun x => (x.cls, x.cause)) =
      some (byte2Codes b2) := by
  rw [responseOf_ofFrame_cons, Option.map_some, byte2Codes]
  cases htag : tagOk b2 with
  | false => rw [convertBytes_of_badTag htag]; rfl
  | true =>
    rw [convertBytes_of_valid htag hhdr, demux]
    cases isErr b2 with
    | true => rfl
    | false => cases isOk b2 <;> rfl

/-! ### Counting the values of byte 2 -/

/-- Every value of a byte. -/
def byteValues : List Byte := (List.range 256).map (BitVec.ofNat 8)

theorem byteValues_nodup : byteValues.Nodup := by
  refine List.nodup_range.map_on fun m hm n hn h => ?_
  have hnat := congrArg BitVec.toNat h
  rwa [BitVec.toNat_ofNat, BitVec.toNat_ofNat, Nat.mod_eq_of_lt (List.mem_range.mp hm),
    Nat.mod_eq_of_lt (List.mem_range.mp hn)] at hnat

theorem mem_byteValues (b : Byte) : b ∈ byteValues :=
  List.mem_map.mpr ⟨b.toNat, List.mem_range.mpr b.isLt, by rw [BitVec.ofNat_toNat, BitVec.setWidth_eq]⟩

/-- A test that exactly the listed values pass counts as many values as are listed. -/
theorem countP_byteValues {p : Byte → Bool} {values : List Byte} (hnodup : values.Nodup)
    (hp : ∀ b, p b = true ↔ b ∈ values) : byteValues.countP p = values.length := by
  rw [List.countP_eq_length_filter]
  refine ((List.perm_ext_iff_of_nodup (byteValues_nodup.filter p) hnodup).mpr fun b => ?_).length_eq
  rw [List.mem_filter, hp, and_iff_right (mem_byteValues b)]

/-- How many values of byte 2 give these codes. -/
def byte2Count (codes : BitVec 2 × BitVec 2) : Nat := byteValues.countP fun b2 => decide (byte2Codes b2 = codes)

theorem byte2Count_eq_length {codes : BitVec 2 × BitVec 2} {values : List Byte} (hnodup : values.Nodup)
    (hvalues : ∀ b2, byte2Codes b2 = codes ↔ b2 ∈ values) : byte2Count codes = values.length :=
  countP_byteValues hnodup fun b2 => decide_eq_true_iff.trans (hvalues b2)

theorem byte2Count_error : byte2Count (2#2, 0#2) = 2 :=
  byte2Count_eq_length (values := [0x5A#8, 0x5B#8]) (by decide) (by decide)

theorem byte2Count_reading : byte2Count (1#2, 0#2) = 4 :=
  byte2Count_eq_length (values := [0x42#8, 0x43#8, 0x46#8, 0x47#8]) (by decide) (by decide)

theorem byte2Count_overrun : byte2Count (3#2, 0#2) = 10 :=
  byte2Count_eq_length
    (values := [0x4A#8, 0x4B#8, 0x4E#8, 0x4F#8, 0x52#8, 0x53#8, 0x56#8, 0x57#8, 0x5E#8, 0x5F#8])
    (by decide) (by decide)

/-- The bad tags are all values but the sixteen that pass it, whose four other bits are free
(41_frame_validation.md R64). -/
theorem byte2Count_badTag : byte2Count (0#2, 2#2) = 240 := by
  have hpass : byteValues.countP (fun b2 => !decide (byte2Codes b2 = (0#2, 2#2))) = 16 :=
    countP_byteValues (values := [0x42#8, 0x43#8, 0x46#8, 0x47#8, 0x4A#8, 0x4B#8, 0x4E#8, 0x4F#8,
      0x52#8, 0x53#8, 0x56#8, 0x57#8, 0x5A#8, 0x5B#8, 0x5E#8, 0x5F#8]) (by decide) (by decide)
  have hall : byteValues.length = 256 := by rw [byteValues, List.length_map, List.length_range]
  have hsplit := List.length_eq_countP_add_countP (fun b2 => decide (byte2Codes b2 = (0#2, 2#2))) (l := byteValues)
  simp only [decide_eq_true_eq, decide_not] at hsplit
  rw [hpass, hall] at hsplit
  rw [byte2Count]
  omega

/-- Settles O20: a request that keeps the contract has the codes of its tagged response, and, once the header passes,
the codes are byte 2's alone, so they are counted over its values. -/
theorem outcomesPartitionRequests : Obligations.OutcomesPartitionRequests := by
  refine ⟨fun r hwf => ⟨r.answer, (Request.responseOf_of_wf hwf).1, Tagged.project_codes _⟩,
    fun b0 b1 b3 b4 b5 rest hhdr => ?_⟩
  intro count
  have hcount (cls cause : BitVec 2) : count cls cause = byte2Count (cls, cause) := by
    rw [byte2Count, byteValues, List.countP_map]
    simp only [count, responseOf_codes hhdr, Option.some.injEq, Function.comp_def]
  simp only [hcount]
  exact ⟨byte2Count_badTag, byte2Count_error, byte2Count_reading, byte2Count_overrun⟩

end Sys2Proof.Machine

namespace Sys2Proof.Machine

open Sys2Proof

/-! SUPPORT. The field extractor: what each bit of the two fields is, and the range of their product
(43_field_extract.md R76 to R78). -/

/-! ### The product -/

theorem lambda_add_offset_le (lambda : BitVec 13) : lambda.toNat + 500 ≤ 8691 :=
  Nat.add_le_add_right (Nat.le_of_lt_succ lambda.isLt) 500

/-- The offset keeps the first factor from 0, so only the air factor can make the product 0. -/
theorem product_eq_zero_iff {lambda : BitVec 13} {af : BitVec 8} : product lambda af = 0 ↔ af = 0#8 := by
  have hoffset : lambda.toNat + Config.lambdaOffset ≠ 0 := by simp [Config.lambdaOffset]
  rw [product, Nat.mul_eq_zero, or_iff_right hoffset, ← BitVec.toNat_inj, BitVec.toNat_zero]

/-- Settles O5: the product's bound keeps it below 2^22, the width of its signal, and below 2^53, where the conversion
is exact. -/
theorem productFitsTwentyTwoBits : Obligations.ProductFitsTwentyTwoBits := by
  refine ⟨fun lambda af => ?_, by decide, by decide⟩
  have hle : product lambda af ≤ 2216205 := product_le lambda af
  have hfits : (BitVec.ofNat 22 (product lambda af)).toNat = product lambda af :=
    Nat.mod_eq_of_lt (Nat.lt_of_le_of_lt hle (by decide))
  have hexact : F64.signedUnits (toF64 (product lambda af)) = (product lambda af : Int) * F64.one :=
    signedUnits_toF64 (Nat.lt_of_le_of_lt hle (by decide))
  exact ⟨rfl, hle, hfits, Nat.le_add_left 500 _, lambda_add_offset_le lambda, product_eq_zero_iff, hexact⟩

/-! ### The air factor -/

theorem airFactor_toNat (b2 b3 : Byte) : (airFactor b2 b3).toNat = ((b2.toNat &&& 1) <<< 7) ||| b3.toNat := by
  have hbit : b2.toNat &&& 1 ≤ 1 := Nat.and_le_right
  have hfits : (b2.toNat &&& 1) <<< 7 < 2 ^ 8 := by
    rw [Nat.shiftLeft_eq]
    omega
  rw [airFactor, BitVec.toNat_or, BitVec.toNat_shiftLeft, BitVec.toNat_and]
  exact congrArg (· ||| b3.toNat) (Nat.mod_eq_of_lt hfits)

/-- Bit 7 is the only one that byte 2 adds to byte 3. -/
theorem airFactor_getLsbD (b2 b3 : Byte) (k : Nat) :
    (airFactor b2 b3).getLsbD k = ((decide (k = 7) && b2.getLsbD 0) || b3.getLsbD k) := by
  rw [airFactor, BitVec.getLsbD_or, BitVec.getLsbD_shiftLeft, BitVec.getLsbD_and, Config.afHiMask, Config.afHiShift,
    BitVec.getLsbD_one]
  rcases Nat.lt_trichotomy k 7 with hlt | rfl | hgt
  · simp [hlt, hlt.ne]
  · simp
  · simp [hgt.ne', Nat.not_lt.mpr hgt]

/-- A set bit 7 of byte 3 hides byte 2: the OR is no concatenation. -/
theorem airFactor_eq_of_bit7 {b3 : Byte} (h : b3.getLsbD 7 = true) (b2 b2' : Byte) :
    airFactor b2 b3 = airFactor b2' b3 := by
  refine BitVec.eq_of_getLsbD_eq fun k _ => ?_
  rw [airFactor_getLsbD, airFactor_getLsbD]
  rcases eq_or_ne k 7 with rfl | hk
  · rw [h, Bool.or_true, Bool.or_true]
  · rw [decide_eq_false hk, Bool.false_and, Bool.false_and]

theorem airFactor_eq_zero_iff {b2 b3 : Byte} :
    airFactor b2 b3 = 0#8 ↔ b2.getLsbD 0 = false ∧ b3 = 0#8 := by
  rw [airFactor_eq_ite]
  cases hbit : b2.getLsbD 0 with
  | false => simp
  | true =>
    have hset : (0x80#8 : Byte) ≠ 0#8 := by decide
    simp [BitVec.or_eq_zero_iff, hset]

/-- The ratio 0 rounds to +0.0. -/
theorem afrQuotient_zero : afrQuotient 0 = 0#64 := by
  simp [afrQuotient_eq (prod := 0) (by decide), ofRatio, F64.pack]

/-- A reading whose air factor is 0 is +0.0, below the clamp (43_field_extract.md R76). -/
theorem value_ofFields_zero (lambda : BitVec 13) : (Tagged.ofFields 0#8 lambda).value = 0#64 := by
  have hprod : product lambda 0#8 = 0 := product_eq_zero_iff.mpr rfl
  have hclamp : clampedFlag (afrQuotient 0) = false := clampedFlag_afrQuotient (by decide)
  rw [Tagged.ofFields, hprod, Tagged.value, clampAfr, hclamp, afrQuotient_zero]
  rfl

/-- Settles O3: byte 2 bit 0 reaches bit 7 alone, which the OR shares with byte 3; the signal is a reading's. -/
theorem airFactorOrsByte2Bit0IntoBit7 : Obligations.AirFactorOrsByte2Bit0IntoBit7 := by
  refine ⟨airFactor_toNat, fun b2 b3 => ⟨?bit7, fun k hk => ?low⟩, fun b2 b2' _ h => airFactor_eq_of_bit7 h b2 b2',
    fun _ _ => airFactor_eq_zero_iff, value_ofFields_zero, fun b0 b1 b2 b3 b4 b5 => ?signal, by decide⟩
  case bit7 => exact airFactor_getLsbD b2 b3 7
  case low => rw [airFactor_getLsbD, decide_eq_false hk.ne, Bool.false_and, Bool.false_or]
  case signal =>
    have hpath : (!isErr b2 && isOk b2) = isOk b2 :=
      Bool.and_eq_right_iff_imp.mpr fun hok => by simp [isOk_apart b2 hok]
    rw [signalsReachedByPath.2 b0 b1 b2 b3 b4 b5 [], Option.map_some, hpath]

/-! ### Lambda -/

theorem lambdaField_toNat (b4 b5 : Byte) :
    (lambdaField b4 b5).toNat = ((b4.toNat &&& 0x3F) <<< 7) ||| b5.toNat := by
  have hbits : b4.toNat &&& 0x3F ≤ 0x3F := Nat.and_le_right
  have hfits : (b4.toNat &&& 0x3F) <<< 7 < 2 ^ 13 := by
    rw [Nat.shiftLeft_eq]
    omega
  have hhi : (b4 &&& Config.lambdaHiMask).toNat = b4.toNat &&& 0x3F := BitVec.toNat_and ..
  rw [lambdaField, BitVec.toNat_or, BitVec.toNat_shiftLeft, BitVec.toNat_setWidth_of_le (by decide),
    BitVec.toNat_setWidth_of_le (by decide), hhi]
  exact congrArg (· ||| b5.toNat) (Nat.mod_eq_of_lt hfits)

theorem getLsbD_lambdaHiMask (k : Nat) : Config.lambdaHiMask.getLsbD k = decide (k < 6) := by
  have hmask : Config.lambdaHiMask = (BitVec.allOnes 6).setWidth Config.byteW := rfl
  rw [hmask, BitVec.getLsbD_setWidth, BitVec.getLsbD_allOnes, ← Bool.decide_and]
  exact decide_eq_decide.mpr ⟨And.right, fun h => ⟨h.trans (by decide), h⟩⟩

/-- Byte 4 gives its bits 5 to 0 to bits 12 to 7, and byte 5 all of its own in place. -/
theorem lambdaField_getLsbD (b4 b5 : Byte) (k : Nat) : (lambdaField b4 b5).getLsbD k =
    ((decide (7 ≤ k ∧ k ≤ 12) && b4.getLsbD (k - 7)) || b5.getLsbD k) := by
  rw [lambdaField, BitVec.getLsbD_or, BitVec.getLsbD_shiftLeft, BitVec.getLsbD_setWidth, BitVec.getLsbD_setWidth,
    BitVec.getLsbD_and, getLsbD_lambdaHiMask, Config.lambdaHiShift]
  by_cases hk : k < 13
  · by_cases h7 : k < 7
    · simp [hk, h7, Nat.not_le.mpr h7]
    · simp [hk, h7, show k - 7 < 13 by omega, show k - 7 < 6 by omega, show 7 ≤ k ∧ k ≤ 12 by omega]
  · have h5 : b5.getLsbD k = false :=
      BitVec.getLsbD_of_ge _ _ ((show Config.byteW ≤ 13 by decide).trans (Nat.not_lt.mp hk))
    simp [hk, h5, show ¬ (7 ≤ k ∧ k ≤ 12) by omega]

/-- Settles O4: byte 4 gives the bits under its mask, seven places up, and the OR shares bit 7 with byte 5; the signal
is an error's and a reading's. -/
theorem lambdaIsThirteenBits : Obligations.LambdaIsThirteenBits := by
  refine ⟨fun b4 b5 => ⟨lambdaField_toNat b4 b5, Nat.le_of_lt_succ (lambdaField b4 b5).isLt⟩,
    fun b4 b5 => ⟨fun k hlo hhi => ?high, ?bit7, fun k hk => ?low⟩, fun _ _ _ h => lambdaField_congr h rfl,
    fun b0 b1 b2 b3 b4 b5 => ?signal, by decide, by decide, by decide⟩
  case high =>
    have hbyte5 : b5.getLsbD (k + 7) = false := BitVec.getLsbD_of_ge _ _ (Nat.add_le_add_right hlo 7)
    rw [lambdaField_getLsbD, decide_eq_true ⟨Nat.le_add_left 7 k, Nat.add_le_add_right hhi 7⟩, hbyte5,
      Nat.add_sub_cancel, Bool.true_and, Bool.or_false]
  case bit7 => exact lambdaField_getLsbD b4 b5 7
  case low => rw [lambdaField_getLsbD, decide_eq_false fun h => hk.not_ge h.1, Bool.false_and, Bool.false_or]
  case signal => rw [signalsReachedByPath.2 b0 b1 b2 b3 b4 b5 [], Option.map_some]

end Sys2Proof.Machine

namespace Sys2Proof.Machine

open Sys2Proof

/-! SUPPORT. The quotient of a product is the binary64 nearest the exact ratio, it rises with the product, and the
clamp cuts it at MAX_AFR (44_result.md R81 to R83). -/

/-! ### A common factor of a ratio -/

/-- Rounding sees a ratio only. -/
theorem divNearest_mul_right (n d : Nat) {c : Nat} (hc : 0 < c) : divNearest (n * c) (d * c) = divNearest n d := by
  have hlt : d * c < 2 * (n % d * c) ↔ d < 2 * (n % d) := by
    rw [← Nat.mul_assoc, Nat.mul_lt_mul_right hc]
  have heq : 2 * (n % d * c) = d * c ↔ 2 * (n % d) = d := by
    rw [← Nat.mul_assoc, Nat.mul_left_inj hc.ne']
  simp only [divNearest, Nat.mul_div_mul_right _ _ hc, Nat.mul_mod_mul_right, hlt, heq]

theorem ofRatio_mul_right (neg : Bool) (n d : Nat) {c : Nat} (hc : 0 < c) :
    ofRatio neg (n * c) (d * c) = ofRatio neg n d := by
  have hdropped : droppedDigits (n * c) (d * c) = droppedDigits n d := by
    rw [droppedDigits, Nat.mul_right_comm, Nat.mul_div_mul_right _ _ hc, droppedDigits]
  have hmag : nearestMag (n * c) (d * c) = nearestMag n d := by
    simp only [nearestMag, hdropped, Nat.mul_right_comm _ c, divNearest_mul_right _ _ hc]
  rw [ofRatio, hmag, ofRatio]

/-- The block's quotient is the ratio of the product and the divisor, rounded once (44_result.md R81). -/
theorem afrQuotient_eq_ofRatio {prod : Nat} (h : prod < 2 ^ 53) :
    afrQuotient prod = ofRatio false prod 10000 :=
  (afrQuotient_eq h).trans (ofRatio_mul_right _ _ _ F64.one_pos)

/-! ### What rounding drops -/

/-- A larger divisor drops no more digits. -/
theorem droppedDigits_le_one (n d : Nat) : droppedDigits n d ≤ droppedDigits n 1 := by
  simp only [droppedDigits, Nat.log2_eq_log_two, Nat.div_one]
  exact Nat.sub_le_sub_right (Nat.log_mono_right (Nat.div_le_self _ _)) 52

/-- No ratio of an integer below 2^53 comes near infinity. -/
theorem nearestMag_lt_of_num_lt {n : Nat} (hn : n < 2 ^ 53) (d : Nat) : nearestMag n d < 2047 * 2 ^ 52 := by
  have hkept := (kept_bounds n d).1
  have hdrop := (droppedDigits_le_one n d).trans (droppedDigits_le_of_lt hn)
  refine Nat.lt_of_le_of_lt (Nat.min_le_left _ _) ?_
  omega

/-- Where digits are dropped, the exact ratio has at least 53 of them. -/
theorem two_pow_le_of_dropped {n d : Nat} (h : 0 < droppedDigits n d) :
    2 ^ 52 * (d * 2 ^ droppedDigits n d) ≤ n * F64.one := by
  have hne : n * F64.one / d ≠ 0 := by
    intro h0
    rw [droppedDigits, h0, Nat.log2_zero] at h
    cases h
  have hlog : 52 + droppedDigits n d = Nat.log2 (n * F64.one / d) := by
    rw [droppedDigits] at h ⊢
    omega
  have hquot : 2 ^ 52 * 2 ^ droppedDigits n d ≤ n * F64.one / d := by
    rw [← Nat.pow_add, hlog]
    exact Nat.log2_self_le hne
  calc 2 ^ 52 * (d * 2 ^ droppedDigits n d) = 2 ^ 52 * 2 ^ droppedDigits n d * d := by ring
    _ ≤ n * F64.one / d * d := Nat.mul_le_mul_right d hquot
    _ ≤ n * F64.one := Nat.div_mul_le_self _ _

/-! ### The neighbours of a binary64 -/

section Neighbours
variable {q t m : Nat}

/-- The next binary64 above is at least one kept digit away. -/
theorem unitsOfMag_gap_above (hle : q ≤ 2 ^ 53) (hge : 0 < t → 2 ^ 52 ≤ q) (hm : q + t * 2 ^ 52 < m) :
    q * 2 ^ t + 2 ^ t ≤ unitsOfMag m := by
  have hnext : unitsOfMag (q + t * 2 ^ 52 + 1) ≤ unitsOfMag m := unitsOfMag_strictMono.monotone hm
  refine le_trans ?_ hnext
  rcases Nat.lt_or_eq_of_le hle with hlt | rfl
  · rw [Nat.add_right_comm, unitsOfMag_of_kept hlt fun ht => (hge ht).trans q.le_succ, Nat.succ_mul]
  · have hcarry : 2 ^ 53 + t * 2 ^ 52 + 1 = (2 ^ 52 + 1) + (t + 1) * 2 ^ 52 := by omega
    rw [hcarry, unitsOfMag_of_kept (by decide) fun _ => Nat.le_succ _, Nat.pow_succ]
    omega

/-- The next binary64 below is one kept digit away, unless this one has the least digits of its exponent. -/
theorem unitsOfMag_gap_below (hle : q ≤ 2 ^ 53) (hge : 0 < t → 2 ^ 52 < q) (hm : m < q + t * 2 ^ 52) :
    unitsOfMag m + 2 ^ t ≤ q * 2 ^ t := by
  have hpos : 0 < q := by
    rcases Nat.eq_zero_or_pos t with rfl | ht
    · omega
    · exact Nat.lt_of_le_of_lt (Nat.zero_le _) (hge ht)
  obtain ⟨k, rfl⟩ := Nat.exists_eq_succ_of_ne_zero hpos.ne'
  have hprev : unitsOfMag m ≤ unitsOfMag (k + t * 2 ^ 52) := unitsOfMag_strictMono.monotone (by omega)
  rw [unitsOfMag_of_kept (k.le_succ.trans hle) fun ht => Nat.le_of_lt_succ (hge ht)] at hprev
  rw [Nat.succ_mul]
  exact Nat.add_le_add_right hprev _

end Neighbours

/-! ### Nearness -/

/-- Without a tie, rounding to nearest misses the quotient by less than half. -/
theorem divNearest_error_of_no_tie {n d : Nat} (hd : 0 < d) (htie : 2 * (n % d) ≠ d) :
    2 * n < 2 * (divNearest n d * d) + d ∧ 2 * (divNearest n d * d) < 2 * n + d := by
  have hn : n / d * d + n % d = n := Nat.div_add_mod' n d
  have hr : n % d < d := Nat.mod_lt n hd
  simp only [divNearest]
  split
  · have hsucc : (n / d + 1) * d = n / d * d + d := Nat.succ_mul _ _
    omega
  · omega

/-- Is `u` strictly nearer to `x` than `v` is? -/
def NearerTo (x u v : Nat) : Prop := ((u : Int) - x).natAbs < ((v : Int) - x).natAbs

/-- Within half a gap of `x`, and `v` a whole gap further down. -/
theorem NearerTo.of_gap_below {x u v g : Nat} (hg : 0 < g) (herr : 2 * u < 2 * x + g) (hgap : v + g ≤ u) :
    NearerTo x u v := by
  unfold NearerTo
  omega

/-- Within half a gap of `x`, and `v` a whole gap further up. -/
theorem NearerTo.of_gap_above {x u v g : Nat} (hg : 0 < g) (herr : 2 * x < 2 * u + g) (hgap : u + g ≤ v) :
    NearerTo x u v := by
  unfold NearerTo
  omega

/-- `x` is not below `u`, and `v` is. -/
theorem NearerTo.of_lt_of_le {x u v : Nat} (hv : v < u) (hu : u ≤ x) : NearerTo x u v := by
  unfold NearerTo
  omega

/-- Where no tie occurs, the rounded ratio is strictly nearer to the exact one than any other magnitude field: half a
kept digit separates it from the neighbour on either side, but for the one below the least digits of an exponent, and
there the exact ratio is on the other side. -/
theorem nearestMag_nearest {n d m : Nat} (hd : 0 < d) (hfin : nearestMag n d < 2047 * 2 ^ 52)
    (htie : 2 * (n * F64.one % (d * 2 ^ droppedDigits n d)) ≠ d * 2 ^ droppedDigits n d)
    (hm : m ≠ nearestMag n d) :
    NearerTo (n * F64.one) (unitsOfMag (nearestMag n d) * d) (unitsOfMag m * d) := by
  obtain ⟨hkept, hkept52⟩ := kept_bounds n d
  have hleast := two_pow_le_of_dropped (n := n) (d := d)
  have hstep : 0 < d * 2 ^ droppedDigits n d := Nat.mul_pos hd (Nat.two_pow_pos _)
  obtain ⟨hup, hlow⟩ := divNearest_error_of_no_tie hstep htie
  rw [nearestMag_eq hfin] at hm ⊢
  generalize droppedDigits n d = t at *
  generalize n * F64.one = x at *
  generalize divNearest x (d * 2 ^ t) = q at *
  have hunits : q * 2 ^ t * d = q * (d * 2 ^ t) := by ring
  rw [unitsOfMag_of_kept hkept hkept52]
  rcases Nat.lt_or_gt_of_ne hm with hbelow | habove
  · by_cases hgap : 0 < t → 2 ^ 52 < q
    · have hscaled := Nat.mul_le_mul_right d (unitsOfMag_gap_below hkept hgap hbelow)
      rw [Nat.add_mul, Nat.mul_comm (2 ^ t) d] at hscaled
      exact .of_gap_below hstep (hunits ▸ hlow) hscaled
    · obtain ⟨ht, hq⟩ := Classical.not_imp.mp hgap
      have hq : q = 2 ^ 52 := Nat.le_antisymm (Nat.not_lt.mp hq) (hkept52 ht)
      have hless : unitsOfMag m < q * 2 ^ t := unitsOfMag_of_kept hkept hkept52 ▸ unitsOfMag_strictMono hbelow
      refine .of_lt_of_le (Nat.mul_lt_mul_of_pos_right hless hd) ?_
      rw [hunits, hq]
      exact hleast ht
  · have hscaled := Nat.mul_le_mul_right d (unitsOfMag_gap_above hkept hkept52 habove)
    rw [Nat.add_mul, Nat.mul_comm (2 ^ t) d] at hscaled
    exact .of_gap_above hstep (hunits ▸ hup) hscaled

/-- A number with an odd part above `p` is no multiple of `p` by a power of two. -/
theorem mul_two_pow_ne_odd_mul {p a e f : Nat} (hodd : a % 2 = 1) (hlt : e ≤ f → p < a) :
    p * 2 ^ e ≠ a * 2 ^ f := by
  intro heq
  rcases Nat.lt_or_ge f e with hfe | hef
  · obtain ⟨j, rfl⟩ := Nat.exists_eq_add_of_lt hfe
    have hsplit : p * 2 ^ (f + j + 1) = 2 * (p * 2 ^ j) * 2 ^ f := by ring
    have heven := Nat.eq_of_mul_eq_mul_right (Nat.two_pow_pos f) (hsplit.symm.trans heq)
    omega
  · have hscaled : a * 2 ^ e ≤ p * 2 ^ e := heq ▸ Nat.mul_le_mul_left a (Nat.pow_le_pow_right (by decide) hef)
    exact absurd (Nat.le_of_mul_le_mul_right hscaled (Nat.two_pow_pos e)) (Nat.not_le.mpr (hlt hef))

/-- No product makes a tie: halfway between two binary64 its odd part would be 625 times a number of more than 52
digits (44_result.md R81). -/
theorem quotient_no_tie {prod : Nat} (h : prod ≤ 2216205) :
    2 * (prod * F64.one % (10000 * 2 ^ droppedDigits prod 10000)) ≠ 10000 * 2 ^ droppedDigits prod 10000 := by
  intro htie
  have hdiv := Nat.div_add_mod (prod * F64.one) (10000 * 2 ^ droppedDigits prod 10000)
  have hquot : 0 < droppedDigits prod 10000 →
      2 ^ 52 ≤ prod * F64.one / (10000 * 2 ^ droppedDigits prod 10000) := fun ht =>
    (Nat.le_div_iff_mul_le (Nat.mul_pos (by decide) (Nat.two_pow_pos _))).mpr (two_pow_le_of_dropped ht)
  generalize droppedDigits prod 10000 = t at *
  generalize prod * F64.one / (10000 * 2 ^ t) = k at *
  have hhalf : prod * F64.one = 625 * (2 * k + 1) * 2 ^ (t + 3) := by
    generalize prod * F64.one % (10000 * 2 ^ t) = r at *
    calc prod * F64.one = 10000 * 2 ^ t * k + r := hdiv.symm
      _ = 10000 * 2 ^ t * k + 5000 * 2 ^ t := by omega
      _ = 625 * (2 * k + 1) * 2 ^ (t + 3) := by ring
  refine mul_two_pow_ne_odd_mul (e := 1074) (by omega) (fun ht => ?_) hhalf
  have hk : 2 ^ 52 ≤ k := hquot (by omega)
  omega

/-! ### The quotient as a value -/

/-- Sign and magnitude field are the whole pattern (20_memory.md R35). -/
theorem F64.eq_of_sign_of_mag {x y : F64} (hsign : F64.sign x = F64.sign y) (hmag : F64.mag x = F64.mag y) : x = y := by
  refine BitVec.eq_of_getLsbD_eq fun k hk => ?_
  rcases Nat.lt_or_eq_of_le (Nat.le_of_lt_succ hk) with hlow | rfl
  · have hbits : x.extractLsb' 0 63 = y.extractLsb' 0 63 := BitVec.eq_of_toNat_eq hmag
    have hbit := congrArg (BitVec.getLsbD · k) hbits
    simpa [BitVec.getLsbD_extractLsb', show k < 63 from hlow] using hbit
  · exact hsign

/-- The value of a pattern with a clear sign bit. -/
theorem F64.signedUnits_of_sign_false {x : F64} (h : F64.sign x = false) : F64.signedUnits x = F64.units x := by
  simp [F64.signedUnits, h]

theorem F64.key_of_sign_false {x : F64} (h : F64.sign x = false) : F64.key x = F64.mag x := by
  simp [F64.key, h]

theorem F64.sign_maxAfr : F64.sign Config.maxAfr = false := by decide

theorem F64.finite_maxAfr : F64.Finite Config.maxAfr := by
  unfold F64.Finite
  decide

section Quotient
variable {prod : Nat} (h : prod < 2 ^ 53)
include h

theorem finite_afrQuotient : F64.Finite (afrQuotient prod) := by
  rw [afrQuotient_eq_ofRatio h]
  exact finite_ofRatio (nearestMag_lt_of_num_lt h 10000)

theorem sign_afrQuotient : F64.sign (afrQuotient prod) = false := by
  rw [afrQuotient_eq_ofRatio h]
  exact sign_ofRatio ..

theorem mag_afrQuotient : F64.mag (afrQuotient prod) = nearestMag prod 10000 := by
  rw [afrQuotient_eq_ofRatio h]
  exact F64.mag_pack (Nat.lt_of_le_of_lt (nearestMag_le ..) (by decide))

theorem signedUnits_afrQuotient : F64.signedUnits (afrQuotient prod) = unitsOfMag (nearestMag prod 10000) := by
  rw [F64.signedUnits_of_sign_false (sign_afrQuotient h), F64.units_eq, mag_afrQuotient h]

end Quotient

/-- Every product is far below 2^53, where conversions are exact. -/
theorem lt_two_pow_of_le {prod : Nat} (h : prod ≤ 2216205) : prod < 2 ^ 53 := Nat.lt_of_le_of_lt h (by decide)

/-- Settles O8: the quotient's magnitude field is the rounded ratio's, any other non-negative pattern has another one,
and no tie occurs. -/
theorem quotientIsTheNearestBinary64 : Obligations.QuotientIsTheNearestBinary64 := by
  intro prod hprod q
  have hlt := lt_two_pow_of_le hprod
  have hsign : F64.sign q = false := sign_afrQuotient hlt
  refine ⟨rfl, finite_afrQuotient hlt, hsign, fun f _ hf hne => ?_⟩
  have hmag : F64.mag q = nearestMag prod 10000 := mag_afrQuotient hlt
  have hother : F64.mag f ≠ nearestMag prod 10000 := fun heq =>
    hne (F64.eq_of_sign_of_mag (hf.trans hsign.symm) (heq.trans hmag.symm))
  have hnearest := nearestMag_nearest (by decide) (nearestMag_lt_of_num_lt hlt 10000) (quotient_no_tie hprod) hother
  rw [F64.units_eq, F64.units_eq, hmag]
  simpa only [NearerTo, Nat.cast_mul, Nat.cast_ofNat] using hnearest

/-- The value of the quotient rises with the product. -/
theorem signedUnits_afrQuotient_mono {p q : Nat} (hpq : p ≤ q) (hq : q < 2 ^ 53) :
    F64.signedUnits (afrQuotient p) ≤ F64.signedUnits (afrQuotient q) := by
  rw [signedUnits_afrQuotient (hpq.trans_lt hq), signedUnits_afrQuotient hq]
  exact Int.ofNat_le.mpr (unitsOfMag_strictMono.monotone (nearestMag_mono 10000 hpq))

/-- Settles O9: rounding is monotonic, and so are the units of a magnitude field. -/
theorem quotientIsMonotone : Obligations.QuotientIsMonotone :=
  fun _ _ hpq hq => signedUnits_afrQuotient_mono hpq (lt_two_pow_of_le hq)

/-! ### The clamp -/

/-- A finite value is clamped where it exceeds MAX_AFR (44_result.md R82). -/
theorem clampedFlag_iff {raw : F64} (hraw : F64.Finite raw) :
    clampedFlag raw = true ↔ F64.signedUnits Config.maxAfr < F64.signedUnits raw :=
  (greaterThanComparesValues raw Config.maxAfr).2 hraw F64.finite_maxAfr

/-- Settles O11: the flag is the comparison itself, which is false of equal values, and a quotient is finite. -/
theorem clampIsStrict : Obligations.ClampIsStrict := by
  have hequal : clampedFlag Config.maxAfr = false :=
    Bool.eq_false_iff.mpr fun h => lt_irrefl _ ((clampedFlag_iff F64.finite_maxAfr).mp h)
  refine ⟨fun raw => ⟨rfl, rfl⟩, fun raw hraw => clampedFlag_iff hraw, hequal, ?_, fun lambda af => ?_,
    clampedFlag_afrQuotient (by decide)⟩
  · change clampAfr Config.maxAfr = Config.maxAfr
    rw [clampAfr, ite_self]
  · exact (finite_afrQuotient (lt_two_pow_of_le (product_le lambda af))).isNaN_eq_false

/-- A quotient exceeds MAX_AFR exactly where its product exceeds 203300 (44_result.md R83). -/
theorem maxAfr_lt_afrQuotient_iff {prod : Nat} (h : prod < 2 ^ 53) :
    F64.signedUnits Config.maxAfr < F64.signedUnits (afrQuotient prod) ↔ 203300 < prod := by
  rw [← clampedFlag_iff (finite_afrQuotient h), clampedFlag_afrQuotient h, decide_eq_true_iff]

/-- The largest product that is not clamped gives MAX_AFR itself (44_result.md R83). -/
theorem afrQuotient_threshold : afrQuotient 203300 = Config.maxAfr := by
  have hlt : 203300 < 2 ^ 53 := by decide
  have hkey : F64.key (afrQuotient 203300) = F64.key Config.maxAfr := by
    rw [afrQuotient_eq hlt, key_ofRatio, nearestMag_at_threshold.1]
  have hmag : F64.mag (afrQuotient 203300) = F64.mag Config.maxAfr := by
    rw [F64.key_of_sign_false (sign_afrQuotient hlt), F64.key_of_sign_false F64.sign_maxAfr] at hkey
    exact Int.ofNat.inj hkey
  exact F64.eq_of_sign_of_mag ((sign_afrQuotient hlt).trans F64.sign_maxAfr.symm) hmag

/-- Settles O10: the flag compares with MAX_AFR, and the quotient rises with the product. -/
theorem clampThresholdInIntegers : Obligations.ClampThresholdInIntegers := by
  refine ⟨clampedFlag_product, fun prod hprod => ?below, afrQuotient_threshold, fun prod hlow hhigh => ?above,
    (maxAfr_lt_afrQuotient_iff (by decide)).mpr (by decide), by decide⟩
  case below =>
    rw [← afrQuotient_threshold]
    exact signedUnits_afrQuotient_mono hprod (by decide)
  case above => exact signedUnits_afrQuotient_mono hlow (lt_two_pow_of_le hhigh)

end Sys2Proof.Machine

namespace Sys2Proof.Machine

open Sys2Proof

/-! SUPPORT. The values of the error and the reading, and what the six rows of a valid frame answer (44_result.md R80,
R84, R85). -/

/-! ### The error value -/

section Error
variable (lambda : BitVec 13)

/-- Minus lambda is an integer that converts exactly. -/
theorem natAbs_zero_sub_lt : (0 - (lambda.toNat : Int)).natAbs < 2 ^ 53 := by
  have hlt : lambda.toNat < 2 ^ 13 := lambda.isLt
  omega

theorem finite_errorValue : F64.Finite (errorValue lambda) := finite_toF64 (natAbs_zero_sub_lt lambda)

theorem signedUnits_errorValue : F64.signedUnits (errorValue lambda) = -(lambda.toNat : Int) * F64.one := by
  rw [errorValue, signedUnits_toF64 (natAbs_zero_sub_lt lambda), zero_sub]

/-- The value of an error is negative for every lambda but 0. -/
theorem sign_errorValue : F64.sign (errorValue lambda) = true ↔ lambda ≠ 0#13 := by
  have hzero : lambda = 0#13 ↔ lambda.toNat = 0 := BitVec.toNat_inj.symm
  rw [errorValue, sign_toF64, decide_eq_true_iff, Ne, hzero]
  omega

end Error

@[simp] theorem errorValue_zero : errorValue 0#13 = 0#64 := toF64_zero

theorem errorValue_one : errorValue 1#13 = 0xBFF0000000000000#64 := by decide +kernel

theorem errorValue_max : errorValue 8191#13 = 0xC0BFFF0000000000#64 := by decide +kernel

/-- Settles O13: the row answers lambda of its two bytes, and minus lambda converts exactly. -/
theorem errorFrameAnswersMinusLambda : Obligations.ErrorFrameAnswersMinusLambda := by
  intro hi lo
  exact ⟨errorValue (lambdaField hi lo), lambdaField hi lo, fun _ _ _ _ _ _ => rfl, lambdaField_toNat hi lo,
    finite_errorValue _, signedUnits_errorValue _, fun h => h ▸ errorValue_zero, fun h => h ▸ errorValue_one,
    fun h => h ▸ errorValue_max⟩

/-! ### The reading value -/

section Reading
variable (af : BitVec 8) (lambda : BitVec 13)

theorem product_lt : product lambda af < 2 ^ 53 := lt_two_pow_of_le (product_le lambda af)

/-- A reading's value is the quotient of its product, cut at the integer threshold (44_result.md R83, R84). -/
theorem value_ofFields : (Tagged.ofFields af lambda).value =
    if 203300 < product lambda af then Config.maxAfr else afrQuotient (product lambda af) := by
  rw [Tagged.ofFields, Tagged.value, clampAfr, clampedFlag_product]
  simp only [decide_eq_true_eq]

/-- A reading's value lies in [+0.0, MAX_AFR] (44_result.md R84). -/
theorem value_ofFields_range : F64.Finite (Tagged.ofFields af lambda).value ∧
    F64.sign (Tagged.ofFields af lambda).value = false ∧
    F64.signedUnits (Tagged.ofFields af lambda).value ≤ F64.signedUnits Config.maxAfr := by
  rw [value_ofFields]
  split
  next => exact ⟨F64.finite_maxAfr, F64.sign_maxAfr, le_rfl⟩
  next hle =>
    have hlt := product_lt af lambda
    exact ⟨finite_afrQuotient hlt, sign_afrQuotient hlt, not_lt.mp (mt (maxAfr_lt_afrQuotient_iff hlt).mp hle)⟩

/-- The state a READING response leaves, by the pattern that matched. -/
theorem State.answerReading_eq {okA okB : Bool} (hok : (okA || okB) = true) (s : State) :
    s.answerReading okA okB af lambda =
      { s with
        sig := { lenOk := some true, tagOk := some true, hdrOk := some true, isErr := some false,
                 isOkA := some okA, isOkB := some okB, isOk := some true, lambda := some lambda, af := some af,
                 prod := some (BitVec.ofNat 22 (product lambda af)),
                 afrRaw := some (afrQuotient (product lambda af)),
                 clamped := some (decide (203300 < product lambda af)) }
        out := some { value := (Tagged.ofFields af lambda).value, cls := 1#2, cause := 0#2, lambda := lambda, af := af,
                      clamped := BitVec.ofBool (decide (203300 < product lambda af)) } } := by
  rw [State.answerReading, State.answer, Signals.reading, Signals.notError, hok, ← clampedFlag_product]
  rfl

end Reading

/-- The ones of an OK pattern stand outside AF_HI_MASK, so they add nothing to the air factor (43_field_extract.md
R76). -/
theorem airFactor_or {ones : Byte} (hones : ones &&& Config.afHiMask = 0#8) (b2 b3 : Byte) :
    airFactor (ones ||| b2) b3 = airFactor b2 b3 := by
  rw [airFactor, BitVec.and_or_distrib_right, hones, BitVec.zero_or, airFactor]

/-- Settles O14: both rows are the READING outcome of their fields, and the clamp is the integer threshold. -/
theorem readingFramesAnswerClampedQuotient : Obligations.ReadingFramesAnswerClampedQuotient := by
  intro afHi afLo hi lo
  obtain ⟨hfinite, hsign, hle⟩ := value_ofFields_range (airFactor afHi afLo) (lambdaField hi lo)
  refine ⟨(Tagged.ofFields (airFactor afHi afLo) (lambdaField hi lo)).value,
    afrQuotient (product (lambdaField hi lo) (airFactor afHi afLo)), lambdaField hi lo, airFactor afHi afLo,
    product (lambdaField hi lo) (airFactor afHi afLo), ?_⟩
  intro clamped after
  refine ⟨fun len hdr b4Rest s => ?readingA, fun len hdr b4Rest s => ?readingB, lambdaField_toNat hi lo,
    airFactor_toNat afHi afLo, rfl, rfl, ?value, hfinite, hsign, hle, fun haf => ?zero⟩
  case readingA =>
    rw [exec, execReadingA, airFactor_or (by decide), State.answerReading_eq _ _ rfl]
  case readingB =>
    rw [exec, execReadingB, airFactor_or (by decide), State.answerReading_eq _ _ rfl]
  case value =>
    simp only [clamped, decide_eq_true_eq]
    exact value_ofFields _ _
  case zero => rw [haf, value_ofFields_zero]

/-- Settles O15: each row is the OVERRUN outcome, whatever operands it carries. -/
theorem overrunFramesAnswerCeiling : Obligations.OverrunFramesAnswerCeiling :=
  fun _ => ⟨fun _ _ _ _ _ _ _ => rfl, fun _ _ _ _ _ _ _ => rfl, fun _ _ _ _ _ _ => rfl⟩

end Sys2Proof.Machine

namespace Sys2Proof.Machine

open Sys2Proof

/-! SUPPORT. The response of a cycle in which a request is due (44_result.md R86, R90). -/

/-- Settles O33: a due request that keeps the contract is answered with the decode of its snapshot. -/
theorem stepAnswersConvert : Obligations.StepAnswersConvert :=
  fun _ _ _ hreset hnext hwait hwf => step_of_due hreset hnext hwait hwf

/-- Cycles in which requests of one instruction are due show the same ports and signals. -/
theorem step_out_congr {s₁ s₂ t₁ : State} {p₁ p₂ : Pending} {rest₁ rest₂ : List Pending}
    (hreset₁ : s₁.nextInputs.reset = false) (hnext₁ : s₁.nextPending = p₁ :: rest₁) (hwait₁ : p₁.wait = 0)
    (hreset₂ : s₂.nextInputs.reset = false) (hnext₂ : s₂.nextPending = p₂ :: rest₂) (hwait₂ : p₂.wait = 0)
    (hdecode : decode p₁.req = decode p₂.req) (hstep : step s₁ = .next t₁) :
    ∃ t₂, step s₂ = .next t₂ ∧ t₂.out = t₁.out ∧ t₂.sig = t₁.sig := by
  cases hi : decode p₁.req with
  | error e =>
    rw [step_of_decode_error hreset₁ hnext₁ hwait₁ hi] at hstep
    cases hstep
  | ok i =>
    obtain ⟨sig, t, hexec⟩ := exec_answers i
    rw [step_of_decode hreset₁ hnext₁ hwait₁ hi, hexec] at hstep
    cases hstep
    exact ⟨_, (step_of_decode hreset₂ hnext₂ hwait₂ (hdecode ▸ hi)).trans (hexec _), rfl, rfl⟩

/-- Settles O26: the length and positions 0 to 5 decide the instruction, and what it presents does not depend on the
state. -/
theorem responseDependsOnRequestAlone : Obligations.ResponseDependsOnRequestAlone := by
  intro s₁ s₂ p₁ p₂ rest₁ rest₂ t₁ hreset₁ hnext₁ hwait₁ hreset₂ hnext₂ hwait₂ hlen hread hstep
  have hdecode : decode p₁.req = decode p₂.req :=
    decodeReadsFirstSixPositionsOnly.1 p₁.req p₂.req hlen fun _ => hread
  exact step_out_congr hreset₁ hnext₁ hwait₁ hreset₂ hnext₂ hwait₂ hdecode hstep

end Sys2Proof.Machine

namespace Sys2Proof.Machine

open Sys2Proof

/-! SUPPORT. The legacy value of every response: its four forms, and which responses share one (44_result.md R88,
R89). -/

/-! ### The tagged responses a decode gives -/

/-- The tagged responses of the block: a reading is always that of two fields (44_result.md R87). -/
inductive Tagged.Answered : Tagged → Prop where
  | unrecognized (cause : Cause) : Answered (.unrecognized cause)
  | error (lambda : BitVec 13) : Answered (.error lambda)
  | reading (af : BitVec 8) (lambda : BitVec 13) : Answered (Tagged.ofFields af lambda)
  | overrun : Answered .overrun

theorem demux_answered (b2 b3 b4 b5 : Byte) : (demux b2 b3 b4 b5).Answered := by
  rw [demux]
  split
  · exact .error _
  · split
    · exact .reading _ _
    · exact .overrun

theorem convertBytes_answered (b0 b1 b2 b3 b4 b5 : Byte) : (convertBytes b0 b1 b2 b3 b4 b5).Answered := by
  rw [convertBytes]
  split
  · exact .unrecognized _
  · split
    · exact .unrecognized _
    · exact demux_answered b2 b3 b4 b5

theorem convertLen_answered (len : Nat) (bytes : List Byte) : (convertLen len bytes).Answered := by
  unfold convertLen
  split
  · exact convertBytes_answered ..
  · exact .unrecognized _

/-- The response of a request that keeps the contract is the port form of such a tagged response. -/
theorem Request.exists_answered {r : Request} (h : r.wf) : ∃ t : Tagged,
    responseOf r = some t.project ∧ t.Answered :=
  ⟨_, (Request.responseOf_of_wf h).1, convertLen_answered r.len r.bytes⟩

/-! ### The four forms -/

/-- A finite binary64 other than -0.0: where its sign is set its value is not 0. -/
structure F64.Proper (x : F64) : Prop where
  finite : F64.Finite x
  nonzero : F64.sign x = true → F64.signedUnits x ≠ 0

theorem F64.Proper.of_sign_false {x : F64} (hfinite : F64.Finite x) (hsign : F64.sign x = false) : F64.Proper x :=
  ⟨hfinite, fun h => by rw [hsign] at h; cases h⟩

theorem F64.Finite.isInf_eq_false {x : F64} (hx : F64.Finite x) : F64.isInf x = false := by
  have hne : F64.expo x ≠ 2047 := Nat.ne_of_lt hx
  simp [F64.isInf, hne]

theorem F64.finite_zero : F64.Finite 0#64 := by
  unfold F64.Finite
  decide

theorem F64.Proper.ne_negZero {x : F64} (hx : F64.Proper x) : x ≠ 0x8000000000000000#64 := by
  rintro rfl
  exact hx.nonzero (by decide) (by decide)

/-- No legacy value is an infinity, a NaN or -0.0 (44_result.md R88). -/
theorem Tagged.Answered.value_proper {t : Tagged} (h : t.Answered) : F64.Proper t.value := by
  cases h with
  | unrecognized => exact .of_sign_false F64.finite_zero (by decide : F64.sign 0#64 = false)
  | error lambda =>
    refine ⟨finite_errorValue lambda, fun hsign hzero => ?_⟩
    rw [Tagged.value, signedUnits_errorValue, Int.mul_eq_zero] at hzero
    rw [Tagged.value, sign_errorValue, Ne, ← BitVec.toNat_inj, BitVec.toNat_zero] at hsign
    have := F64.one_pos
    omega
  | reading af lambda =>
    obtain ⟨hfinite, hsign, -⟩ := value_ofFields_range af lambda
    exact .of_sign_false hfinite hsign
  | overrun => exact .of_sign_false F64.finite_maxAfr F64.sign_maxAfr

/-- The four forms of the legacy value (44_result.md R88). -/
def F64.LegacyForm (x : F64) : Prop :=
  x = 0#64 ∨
    (∃ k : Nat, 1 ≤ k ∧ k ≤ 8191 ∧ F64.signedUnits x = -(k : Int) * F64.one) ∨
    (∃ (p : Nat) (lambda : BitVec 13) (af : BitVec 8), 1 ≤ p ∧ p ≤ 203300 ∧
      p = (lambda.toNat + 500) * af.toNat ∧ x = divF64 (toF64 p) (toF64 10000)) ∨
    x = 0x4034547AE147AE14#64

theorem errorValue_legacyForm (lambda : BitVec 13) : F64.LegacyForm (errorValue lambda) := by
  rcases Nat.eq_zero_or_pos lambda.toNat with hzero | hpos
  · have hlambda : lambda = 0#13 := BitVec.eq_of_toNat_eq hzero
    exact .inl (hlambda ▸ errorValue_zero)
  · exact .inr (.inl ⟨lambda.toNat, hpos, Nat.le_of_lt_succ lambda.isLt, signedUnits_errorValue lambda⟩)

theorem value_ofFields_legacyForm (af : BitVec 8) (lambda : BitVec 13) :
    F64.LegacyForm (Tagged.ofFields af lambda).value := by
  rw [value_ofFields]
  split
  next => exact .inr (.inr (.inr rfl))
  next hle =>
    rcases Nat.eq_zero_or_pos (product lambda af) with hzero | hpos
    · rw [hzero]
      exact .inl afrQuotient_zero
    · exact .inr (.inr (.inl ⟨_, lambda, af, hpos, Nat.not_lt.mp hle, rfl, rfl⟩))

theorem Tagged.Answered.value_legacyForm {t : Tagged} (h : t.Answered) : F64.LegacyForm t.value := by
  cases h with
  | unrecognized => exact .inl rfl
  | error lambda => exact errorValue_legacyForm lambda
  | reading af lambda => exact value_ofFields_legacyForm af lambda
  | overrun => exact .inr (.inr (.inr rfl))

/-- Settles O22: each class's value has one of the forms, and none is NaN, infinite or -0.0. -/
theorem legacyValueForms : Obligations.LegacyValueForms := by
  intro r hwf
  obtain ⟨t, hresponse, hanswered⟩ := Request.exists_answered hwf
  have hproper := hanswered.value_proper
  refine ⟨t.project, hresponse, ?_⟩
  rw [Tagged.project_value]
  exact ⟨hanswered.value_legacyForm, hproper.finite.isNaN_eq_false, hproper.finite.isInf_eq_false,
    hproper.ne_negZero⟩

/-! ### The collisions -/

/-- Where an error's sign is clear, lambda is 0 and its value +0.0. -/
theorem errorValue_of_sign_false {lambda : BitVec 13} (h : F64.sign (errorValue lambda) = false) : lambda = 0#13 :=
  not_ne_iff.mp (mt (sign_errorValue lambda).mpr (Bool.eq_false_iff.mp h))

theorem errorValue_eq_zero_iff {lambda : BitVec 13} : errorValue lambda = 0#64 ↔ lambda = 0#13 :=
  ⟨fun h => errorValue_of_sign_false (h ▸ by decide), fun h => h ▸ errorValue_zero⟩

/-- MAX_AFR is neither negative nor 0. -/
theorem errorValue_ne_maxAfr (lambda : BitVec 13) : errorValue lambda ≠ Config.maxAfr := by
  intro h
  have hzero : lambda = 0#13 := errorValue_of_sign_false (h ▸ F64.sign_maxAfr)
  rw [hzero, errorValue_zero] at h
  exact absurd h (by decide)

/-- The product 1 already gives more than +0.0, and 203299 less than MAX_AFR. -/
theorem key_afrQuotient_steps : F64.key 0#64 < F64.key (afrQuotient 1) ∧
    F64.key (afrQuotient 203299) < F64.key Config.maxAfr := by
  decide +kernel

theorem afrQuotient_eq_zero_iff {prod : Nat} (h : prod < 2 ^ 53) : afrQuotient prod = 0#64 ↔ prod = 0 := by
  refine ⟨fun hzero => ?_, by rintro rfl; exact afrQuotient_zero⟩
  by_contra hne
  have hstep := (F64.key_lt_key_iff _ _).mp key_afrQuotient_steps.1
  have hmono := signedUnits_afrQuotient_mono (Nat.pos_of_ne_zero hne) h
  rw [hzero] at hmono
  exact absurd hstep (not_lt.mpr hmono)

/-- Of the products that are not clamped only the largest gives MAX_AFR. -/
theorem afrQuotient_eq_maxAfr_iff {prod : Nat} (h : prod ≤ 203300) :
    afrQuotient prod = Config.maxAfr ↔ prod = 203300 := by
  refine ⟨fun hmax => ?_, by rintro rfl; exact afrQuotient_threshold⟩
  by_contra hne
  have hstep := (F64.key_lt_key_iff _ _).mp key_afrQuotient_steps.2
  have hmono := signedUnits_afrQuotient_mono (show prod ≤ 203299 by omega) (by decide)
  rw [hmax] at hmono
  exact absurd hstep (not_lt.mpr hmono)

theorem value_ofFields_eq_zero_iff {af : BitVec 8} {lambda : BitVec 13} :
    (Tagged.ofFields af lambda).value = 0#64 ↔ af = 0#8 := by
  rw [value_ofFields, ← product_eq_zero_iff (lambda := lambda)]
  split
  next hlt => exact iff_of_false (by decide) (Nat.ne_zero_of_lt hlt)
  next => exact afrQuotient_eq_zero_iff (product_lt af lambda)

theorem value_ofFields_eq_maxAfr_iff {af : BitVec 8} {lambda : BitVec 13} :
    (Tagged.ofFields af lambda).value = Config.maxAfr ↔ 203300 ≤ product lambda af := by
  rw [value_ofFields]
  split
  next hlt => exact iff_of_true rfl hlt.le
  next hle =>
    rw [afrQuotient_eq_maxAfr_iff (Nat.not_lt.mp hle)]
    omega

/-- The clamp flag of a reading on the ports (44_result.md R83). -/
theorem clamped_ofFields (af : BitVec 8) (lambda : BitVec 13) :
    (Tagged.ofFields af lambda).project.clamped = BitVec.ofBool (decide (203300 < product lambda af)) := by
  rw [← clampedFlag_product]
  rfl

/-- Which class and fields of a response give which of the values that responses share (44_result.md R89). -/
def Response.CollidesAsListed (resp : Response) : Prop :=
  (resp.value = 0x0000000000000000#64 ↔
    resp.cls = 0#2 ∨ (resp.cls = 2#2 ∧ resp.lambda = 0#13) ∨ (resp.cls = 1#2 ∧ resp.af = 0#8)) ∧
  (resp.value = 0x4034547AE147AE14#64 ↔
    resp.cls = 3#2 ∨ (resp.cls = 1#2 ∧ resp.clamped = 1#1) ∨
    (resp.cls = 1#2 ∧ resp.clamped = 0#1 ∧ product resp.lambda resp.af = 203300)) ∧
  (F64.sign resp.value = true ↔ resp.cls = 2#2 ∧ resp.lambda ≠ 0#13)

theorem error_collides (lambda : BitVec 13) : (Tagged.error lambda).project.CollidesAsListed := by
  have hcls : (Tagged.error lambda).project.cls = 2#2 := rfl
  have hlambda : (Tagged.error lambda).project.lambda = lambda := rfl
  rw [Response.CollidesAsListed, Tagged.project_value, hcls, hlambda]
  exact ⟨errorValue_eq_zero_iff.trans (by simp), iff_of_false (errorValue_ne_maxAfr lambda) (by simp),
    (sign_errorValue lambda).trans (by simp)⟩

theorem ofFields_collides (af : BitVec 8) (lambda : BitVec 13) :
    (Tagged.ofFields af lambda).project.CollidesAsListed := by
  have hcls : (Tagged.ofFields af lambda).project.cls = 1#2 := rfl
  have haf : (Tagged.ofFields af lambda).project.af = af := rfl
  have hlambda : (Tagged.ofFields af lambda).project.lambda = lambda := rfl
  obtain ⟨-, hsign, -⟩ := value_ofFields_range af lambda
  rw [Response.CollidesAsListed, Tagged.project_value, hcls, haf, hlambda, clamped_ofFields]
  refine ⟨value_ofFields_eq_zero_iff.trans (by simp), value_ofFields_eq_maxAfr_iff.trans ?_, by simp [hsign]⟩
  by_cases hclamped : 203300 < product lambda af
  · simp [hclamped, hclamped.le]
  · have hlast : 203300 ≤ product lambda af ↔ product lambda af = 203300 := by omega
    simp [hclamped, hlast]

theorem Tagged.Answered.project_collides {t : Tagged} (h : t.Answered) : t.project.CollidesAsListed := by
  cases h with
  | unrecognized cause => cases cause <;> exact ⟨by decide, by decide, by decide⟩
  | error lambda => exact error_collides lambda
  | reading af lambda => exact ofFields_collides af lambda
  | overrun => exact ⟨by decide, by decide, by decide⟩

/-- Settles O23: class by class, where the value is +0.0, MAX_AFR or negative. -/
theorem legacyValueCollisions : Obligations.LegacyValueCollisions := by
  intro r hwf
  obtain ⟨t, hresponse, hanswered⟩ := Request.exists_answered hwf
  exact ⟨t.project, hresponse, hanswered.project_collides⟩

end Sys2Proof.Machine

namespace Sys2Proof.Machine

open Sys2Proof

/-! SUPPORT. No cycle stops while the transport keeps its contract, and instances side by side do not touch each other
(60_exceptions.md R92, R102). -/

/-- Settles O40: reset taken, nothing due or the oldest request due, each kind of cycle has a next state that meets the
invariant. -/
theorem invariantStatesNeverStop : Obligations.InvariantStatesNeverStop := fun _ h => h.exists_step

/-! ### Instances side by side -/

namespace Instances

section Cons
variable {name : Nat} {n : Nat} {s : State} {rest is' : Instances}

theorem find_cons_of_eq (h : n = name) : find ((n, s) :: rest) name = some s := by simp [find, h]

theorem find_cons_of_ne (h : n ≠ name) : find ((n, s) :: rest) name = find rest name := by simp [find, h]

/-- Either the first instance bears the name and takes the cycle alone, or it stays and a later one may take it. -/
theorem stepAt_cons_cases (h : stepAt name ((n, s) :: rest) = .next is') :
    (n = name ∧ ∃ t, step s = .next t ∧ is' = (n, t) :: rest) ∨
      (n ≠ name ∧ ∃ rest', stepAt name rest = .next rest' ∧ is' = (n, s) :: rest') := by
  rw [stepAt] at h
  split at h
  next hname =>
    split at h
    next t hstep => exact .inl ⟨hname, t, hstep, by cases h; rfl⟩
    all_goals cases h
  next hname =>
    split at h
    next rest' hrest => exact .inr ⟨hname, rest', hrest, by cases h; rfl⟩
    all_goals cases h

end Cons

theorem find_other_of_stepAt {name other : Nat} (hother : other ≠ name) :
    ∀ {is is' : Instances}, stepAt name is = .next is' → is'.find other = is.find other
  | [], _, h => by cases h; rfl
  | (n, s) :: rest, is', h => by
    obtain ⟨rfl, t, -, rfl⟩ | ⟨-, rest', hrest, rfl⟩ := stepAt_cons_cases h
    · rw [find_cons_of_ne hother.symm, find_cons_of_ne hother.symm]
    · have ih := find_other_of_stepAt hother hrest
      by_cases hn : n = other
      · rw [find_cons_of_eq hn, find_cons_of_eq hn]
      · rw [find_cons_of_ne hn, find_cons_of_ne hn, ih]

theorem find_named_of_stepAt {name : Nat} {s : State} :
    ∀ {is is' : Instances}, stepAt name is = .next is' → is.find name = some s →
      ∃ t, step s = .next t ∧ is'.find name = some t
  | [], _, _, hfind => by cases hfind
  | (n, u) :: rest, is', h, hfind => by
    obtain ⟨hn, t, hstep, rfl⟩ | ⟨hn, rest', hrest, rfl⟩ := stepAt_cons_cases h
    · obtain rfl : u = s := by simpa [find_cons_of_eq hn] using hfind
      exact ⟨t, hstep, find_cons_of_eq hn⟩
    · rw [find_cons_of_ne hn] at hfind ⊢
      exact find_named_of_stepAt hrest hfind

end Instances

/-- Settles O46: by induction on the instances, each of which either bears the name or is passed over. -/
theorem instancesDoNotInteract : Obligations.InstancesDoNotInteract := fun _ _ _ h =>
  ⟨fun _ hother => Instances.find_other_of_stepAt hother h, fun _ hfind => Instances.find_named_of_stepAt h hfind⟩

end Sys2Proof.Machine

namespace Sys2Proof.Machine

open Sys2Proof

/-! SUPPORT. Reset cuts the stream in two, and without it every accepted request is answered in time
(70_reset_and_hazards.md R106, R114, R115). -/

/-! ### Across a reset -/

/-- Settles O43: reset leaves an empty FIFO, from which the FIFO order of a run speaks of nothing else. -/
theorem resetStartsNewStream : Obligations.ResetStartsNewStream := by
  intro s h hreset
  refine ⟨State.accepted_reset hreset, s.takeReset, step_of_reset hreset, rfl, rfl, fun hno n u hrun => ?_⟩
  simpa using responsesInAcceptanceOrder n s.takeReset u h.takeReset hno hrun

/-- What a reset cycle leaves is made of the parameters, the inputs to come and the counter alone. -/
theorem State.takeReset_congr {s₁ s₂ : State} (hparams : s₁.params = s₂.params) (hstream : s₁.stream = s₂.stream)
    (hcycle : s₁.cycle = s₂.cycle) : s₁.takeReset = s₂.takeReset := by
  simp only [State.takeReset, hparams, hstream, hcycle]

theorem outputs_of_reset {s : State} (n : Nat) (hreset : s.nextInputs.reset = true) :
    outputs (n + 1) s = outputs n s.takeReset := by
  rw [outputs_succ (step_of_reset hreset), State.takeReset_out, Option.toList_none, List.nil_append]

theorem acceptedIn_of_reset {s : State} (n : Nat) (hreset : s.nextInputs.reset = true) :
    acceptedIn (n + 1) s = acceptedIn n s.takeReset := by
  rw [acceptedIn_succ (step_of_reset hreset), State.accepted_reset hreset, Option.toList_none, List.nil_append]

/-- Settles O44: the reset cycle itself shows nothing, and both runs go on from one state. -/
theorem nothingBeforeResetShows : Obligations.NothingBeforeResetShows := by
  intro s₁ s₂ hparams hstream hcycle hreset₁ n
  have hreset₂ : s₂.nextInputs.reset = true := by
    rw [State.nextInputs, ← hstream]
    exact hreset₁
  cases n with
  | zero => exact ⟨rfl, rfl⟩
  | succ n =>
    rw [outputs_of_reset n hreset₁, outputs_of_reset n hreset₂, acceptedIn_of_reset n hreset₁,
      acceptedIn_of_reset n hreset₂, State.takeReset_congr hparams hstream hcycle]
    exact ⟨rfl, rfl⟩

/-! ### The answer of an accepted request -/

/-- No reset is asserted in the next `n` cycles. -/
def State.NoResetFor (n : Nat) (s : State) : Prop := ∀ inp ∈ s.stream.take n, inp.reset = false

theorem State.NoResetFor.nextInputs {n : Nat} {s : State} (h : s.NoResetFor (n + 1)) :
    s.nextInputs.reset = false := by
  cases hs : s.stream with
  | nil => rw [State.nextInputs_nil hs]; rfl
  | cons inp inputs => rw [State.nextInputs_cons hs]; exact h inp (by simp [hs])

theorem State.NoResetFor.step {n : Nat} {s t : State} (h : s.NoResetFor (n + 1)) (hstep : step s = .next t) :
    t.NoResetFor n := by
  intro inp hinp
  rw [(State.opensTo_of_step h.nextInputs hstep).stream] at hinp
  have htail : inp ∈ (s.stream.take (n + 1)).tail := by simpa [List.tail_take_eq_take_tail] using hinp
  exact h inp (List.mem_of_mem_tail htail)

/-- What is in flight ages by one cycle. -/
theorem State.nextPending_of_mem {s : State} {p : Pending} (hp : p ∈ s.pending) :
    { p with wait := p.wait - 1 } ∈ s.nextPending :=
  List.mem_append_left _ (List.mem_map_of_mem hp)

/-- A cycle without reset takes nothing out of the FIFO that has still to wait. -/
theorem step_keeps_waiting {s t : State} {p : Pending} (hreset : s.nextInputs.reset = false)
    (hstep : step s = .next t) (hp : p ∈ s.nextPending) (hwait : p.wait ≠ 0) : p ∈ t.pending := by
  rcases (State.opensTo_of_step hreset hstep).pending with hsame | ⟨first, hdue, hcons⟩
  · rwa [hsame]
  · rw [hcons] at hp
    rcases List.mem_cons.mp hp with rfl | hrest
    · exact absurd hdue hwait
    · exact hrest

/-- No two requests are due together, so a request that is due is the one the cycle answers. -/
theorem State.Inv.step_of_due_mem {s : State} (h : s.Inv) {p : Pending} (hreset : s.nextInputs.reset = false)
    (hp : p ∈ s.nextPending) (hwait : p.wait = 0) : ∃ t, step s = .next t ∧ t.out = some p.req.answer := by
  rcases s.cycle_kinds with hr | ⟨-, hdue⟩ | ⟨first, rest, -, hnext, hfirst⟩
  · rw [hreset] at hr; cases hr
  · have := h.wait_pos_of_nothingDue hdue p hp
    omega
  · have hwf : first.req.wf := (h.nextPending_wf first (by simp [hnext])).1
    rw [hnext] at hp
    rcases List.mem_cons.mp hp with rfl | hrest
    · exact ⟨_, step_of_due hreset hnext hfirst hwf, rfl⟩
    · have := h.lt_wait_of_mem_tail hnext p hrest
      omega

/-- Each cycle takes one from the wait of a request in flight, and the cycle in which none is left answers it. -/
theorem run_answers_waiting {n : Nat} {r : Request} : ∀ {s : State}, s.Inv → s.NoResetFor (n + 1) →
    ⟨r, n⟩ ∈ s.nextPending → ∃ t, Sys2Proof.core.run (n + 1) s = .next t ∧ t.out = some r.answer := by
  induction n with
  | zero =>
    intro s h hno hp
    obtain ⟨t, hstep, hout⟩ := h.step_of_due_mem hno.nextInputs hp rfl
    exact ⟨t, run_next hstep, hout⟩
  | succ n ih =>
    intro s h hno hp
    obtain ⟨u, hstep, hu⟩ := h.exists_step
    have hkept : ⟨r, n + 1⟩ ∈ u.pending := step_keeps_waiting hno.nextInputs hstep hp n.succ_ne_zero
    rw [run_next hstep]
    exact ih hu (hno.step hstep) (State.nextPending_of_mem hkept)

/-- Settles O42: the handshake puts the snapshot into the FIFO with the whole latency to wait. -/
theorem answeredAfterDecodeLatency : Obligations.AnsweredAfterDecodeLatency := by
  intro s u h hstep hvalid hready hno
  have hno : s.NoResetFor (s.params.decodeLatency + 1) := hno
  have hport : s.params.hasReady = true → s.readyPort = some true :=
    (State.opensTo_of_step hno.nextInputs hstep).inReady ▸ hready
  have haccepted := State.accepted_of_handshake hno.nextInputs hvalid hport
  have hjoins : ⟨s.nextInputs.request, s.params.decodeLatency⟩ ∈ s.nextPending := by
    simp [State.nextPending_of_accepted haccepted]
  exact ⟨haccepted, run_answers_waiting h hno hjoins⟩

end Sys2Proof.Machine
